-- ==== Sys2Proof/Word.lean ====
section
/-!
DEFINITION. The word types of the block (spec/00_scope.md R7): a nibble is 4 bits, a byte 8 bits. All values are unsigned.
-/

namespace Sys2Proof

/-- A 4-bit half of a byte, the unit the display bus carries (R7, R30). -/
abbrev Nibble := BitVec 4

/-- An 8-bit value: a command byte, a data byte, or the code of one character (R7, R46). -/
abbrev Byte := BitVec 8

/-- The 3-bit code of a zone (R47). -/
abbrev ZoneCode := BitVec 3

/-- One output line of one bit. -/
abbrev Bit := BitVec 1

/-- The value of `ET` and of `TICK` (R15, R19). -/
abbrev Seconds := BitVec 7

end Sys2Proof
end

