-- ==== Sys2Proof/Syntax.lean ====
section
/-!
DEFINITION. The syntax: the names the spec uses (lines, register-selects, zones, error kinds), one constructor of `Instr` per
row of spec/opcode_table.json, the formats the table gives its rows, the encoded form of an instruction in its format, and the
names under which the notation refuses a line (R42 to R50).
-/

namespace Sys2Proof

/-- The register-select of a transfer: `Command` is RS = 0, `Data` is RS = 1 (R9, R11). -/
inductive RegSel where
  | command
  | data
deriving DecidableEq, Repr

/-- The five output lines that `drive` sets (R8). -/
inductive Line where
  | db
  | rs
  | rw
  | e
  | relay
deriving DecidableEq, Repr

/-- The five zones of the quantizer (R18, R47). -/
inductive Zone where
  | idle
  | increment
  | decrement
  | reset
  | expose
deriving DecidableEq, Repr

/-- The two error kinds, recorded in the trace and without any other effect (R80). -/
inductive ErrKind where
  | addressOutOfRange
  | sampleOutOfCalibratedBand
deriving DecidableEq, Repr

/-- The instructions: one constructor per row of spec/opcode_table.json, in the table's order. A text is the list of its
characters' codes (R46). -/
inductive Instr where
  /-- BUSWORD `r0nnnn` (R42): one enable pulse carrying one bus word. -/
  | busWord (rs : RegSel) (n : Nibble)
  /-- BYTEPAIR `r0hhhh r0llll` (R43): a byte as its two bus words. -/
  | bytePair (rs : RegSel) (v : Byte)
  /-- CMD_CLEAR `00000001` (R44). -/
  | cmdClear
  /-- CMD_RESET `0000001x` (R44). -/
  | cmdReset (x : Bit)
  /-- CMD_ENTRY_MODE `000001is` (R44). -/
  | cmdEntryMode (i sh : Bit)
  /-- CMD_DISPLAY_CTRL `00001dcb` (R44). -/
  | cmdDisplayCtrl (d c b : Bit)
  /-- CMD_FUNCTION_SET `001lnf00` (R44). -/
  | cmdFunctionSet (l n f : Bit)
  /-- CMD_SET_DDRAM `1aaaaaaa` (R44, R45). -/
  | cmdSetDdram (a : BitVec 7)
  /-- DATA `cccccccc` (R46). -/
  | data (c : Byte)
  /-- ZONE_IDLE `000` (R47). -/
  | zoneIdle
  /-- ZONE_INCREMENT `001` (R47). -/
  | zoneIncrement
  /-- ZONE_DECREMENT `010` (R47). -/
  | zoneDecrement
  /-- ZONE_RESET `011` (R47). -/
  | zoneReset
  /-- ZONE_EXPOSE `100` (R47). -/
  | zoneExpose
  /-- ZONE_RESERVED `101`, `110`, `111` (R47, R50). -/
  | zoneReserved (code : ZoneCode)
  /-- DRIVE L, v (R8). The level is 4 bits wide so that the notation's test of it means something. -/
  | drive (l : Line) (v : Nibble)
  /-- WAIT d, d in microseconds (R85). -/
  | wait (d : Nat)
  /-- SAMPLE (R88). -/
  | sample
  /-- NOTE k (R80). -/
  | note (k : ErrKind)
  /-- SENDNIB rs, n (R51). -/
  | sendNib (rs : RegSel) (n : Nibble)
  /-- SENDBYTE rs, v (R53). -/
  | sendByte (rs : RegSel) (v : Byte)
  /-- PUTCMD v (R56). -/
  | putCmd (v : Byte)
  /-- PUTCHAR ch (R57). -/
  | putChar (ch : Byte)
  /-- PUTSTR s (R58). -/
  | putStr (str : List Byte)
  /-- GOTO c, l (R59): natural numbers, so that the range test means something. -/
  | gotoPos (c l : Nat)
  /-- INIT (R60). -/
  | init
  /-- WRITEAT c, l, s (R62). -/
  | writeAt (c l : Nat) (str : List Byte)
  /-- RENDER l, s (R63): the line is a natural number, as WRITEAT's is, to which RENDER expands (R49). -/
  | render (l : Nat) (str : List Byte)
  /-- CLASSIFY (R66). -/
  | classify
  /-- POLL (R69). -/
  | poll
  /-- H_INC (R71). -/
  | hInc
  /-- H_DEC (R72). -/
  | hDec
  /-- H_RESET (R73). -/
  | hReset
  /-- H_EXPOSE (R75). -/
  | hExpose
  /-- H_IDLE (R76). -/
  | hIdle
  /-- BANNER (R74). -/
  | banner
  /-- BOOT (R95). -/
  | boot
deriving DecidableEq, Repr

/-- The formats of spec/opcode_table.json's rows. -/
inductive Format where
  | busWord
  | bytePair
  | cmdByte
  | dataByte
  | zoneCode
  | operation
deriving DecidableEq, Repr

/-- An instruction in its format: the bits of the rows that have bits (R42 to R47), and for an operation one line of the
notation (R48), as the codes of its characters. -/
inductive Encoded where
  | busWord (w : BitVec 6)
  | bytePair (w : BitVec 12)
  | cmdByte (w : Byte)
  | dataByte (w : Byte)
  | zoneCode (w : ZoneCode)
  | operation (line : List Byte)
deriving DecidableEq, Repr

/-- The names under which an encoded form is refused (R50). All of them are safe: the input is turned away before it runs. -/
inductive ScriptError where
  /-- The line's first word is no mnemonic of R48. -/
  | unknownMnemonic
  /-- The operation takes another number of operands. -/
  | wrongOperandCount
  /-- An operand that is not of the kind the operation takes, or no operand of the notation at all. -/
  | badOperand
  /-- A nibble operand above 15. -/
  | nibbleTooWide
  /-- A byte operand above 255. -/
  | byteTooWide
  /-- A register-select other than `CMD` or `DAT`. -/
  | badRegisterSelect
  /-- A line name outside the five. -/
  | badLineName
  /-- A level the line does not admit. -/
  | badLevel
  /-- RW = 1: a read transfer, which the block has no way to produce. -/
  | readTransfer
  /-- A string operand of `RENDER` longer than 16 characters. -/
  | renderTooLong
  /-- A `NOTE` operand that is neither of the two error kinds. -/
  | badErrorKind
  /-- A bus-word pair whose two words differ in RS. -/
  | mixedRegisterSelect
  /-- A command byte of none of the six forms of R44, offered as one of them. -/
  | unknownCommandForm
deriving DecidableEq, Repr

end Sys2Proof
end

