-- ==== Sys2Proof/Config.lean ====
section
/-!
DEFINITION. The parameters of the block (spec/00_scope.md R5) as a record, with the defaults the table gives; the OPEN parameters
and the draws of the environment, which the spec leaves open, as constants without a body.
-/

namespace Sys2Proof

/-- One row of the band table (R65): the samples `s` with `above < s` (where given) and `s < below`. -/
structure Band where
  zone  : Zone
  above : Option Nat
  below : Nat
deriving DecidableEq, Repr

/-- A positive-denominator ratio `num / (denPred + 1)`: cycles per microsecond need not be a whole number (R85). -/
structure Ratio where
  num     : Nat
  denPred : Nat
deriving DecidableEq, Repr

/-- The configuration record of R5 and R24: fixed when the block is built; no step writes it. Times are in microseconds. -/
structure Config where
  tSu              : Nat
  tPw              : Nat
  tH               : Nat
  tSettle          : Nat
  tPowerup         : Nat
  tAdjust          : Nat
  tResetMsg        : Nat
  tBanner          : Nat
  tTick            : Nat
  /-- CYCLES_PER_US, OPEN. -/
  cyclesPerUs      : Ratio
  /-- DELAY_EXCESS, OPEN: `none` is 'no upper bound'. -/
  delayExcess      : Option Nat
  sampleBits       : Nat
  /-- ADC_CHANNEL, OPEN. -/
  adcChannel       : Int
  etMin            : Seconds
  etMax            : Seconds
  etReset          : Seconds
  cols             : Nat
  lines            : Nat
  bands            : List Band
  /-- RELAY_ACTIVE_LEVEL, OPEN. -/
  relayActiveLevel : Bit
  cmdReset         : Byte
  cmdFunctionSet   : Byte
  cmdDisplayCtrl   : Byte
  cmdEntryMode     : Byte
  cmdClear         : Byte
  cmdSetDdram      : Byte
  lineBase0        : BitVec 7
  lineBase1        : BitVec 7
deriving DecidableEq, Repr

/-- OPEN parameter CYCLES_PER_US, its numerator (log entry 4). -/
opaque Config.openCyclesNum : Nat
/-- OPEN parameter CYCLES_PER_US, its denominator less one (log entry 4). -/
opaque Config.openCyclesDenPred : Nat
/-- OPEN parameter ADC_CHANNEL (log entry 4). -/
opaque Config.openAdcChannel : Int
/-- OPEN parameter RELAY_ACTIVE_LEVEL (log entry 4). -/
opaque Config.openRelayActiveLevel : Bit

/-- FREE VALUE: what the converter answers on a channel at the n-th draw (R88; log entry 6). -/
opaque Config.freeSample : Int → Nat → Nat
/-- FREE VALUE: by how much the n-th draw's wait exceeds its nominal length (R85; log entry 5). -/
opaque Config.freeExcess : Nat → Nat
/-- FREE VALUE: how long the n-th draw's action that is no wait takes (R86; log entry 5). -/
opaque Config.freeDuration : Nat → Nat

/-- The band table with its default values (R65). -/
def Config.defaultBands : List Band :=
  [ ⟨.increment, some 700, 800⟩, ⟨.decrement, some 600, 700⟩, ⟨.reset, some 500, 600⟩, ⟨.expose, none, 10⟩ ]

/-- The parameter table of R5 with its defaults; DELAY_EXCESS has no bound unless given. -/
def Config.default : Config where
  tSu              := 10
  tPw              := 10
  tH               := 10
  tSettle          := 5000
  tPowerup         := 15000
  tAdjust          := 200000
  tResetMsg        := 1000000
  tBanner          := 4000000
  tTick            := 915000
  cyclesPerUs      := ⟨Config.openCyclesNum, Config.openCyclesDenPred⟩
  delayExcess      := none
  sampleBits       := 10
  adcChannel       := Config.openAdcChannel
  etMin            := 1
  etMax            := 99
  etReset          := 1
  cols             := 16
  lines            := 2
  bands            := Config.defaultBands
  relayActiveLevel := Config.openRelayActiveLevel
  cmdReset         := 0x02
  cmdFunctionSet   := 0x28
  cmdDisplayCtrl   := 0x0C
  cmdEntryMode     := 0x06
  cmdClear         := 0x01
  cmdSetDdram      := 0x80
  lineBase0        := 0x00
  lineBase1        := 0x40

end Sys2Proof
end

