-- ==== Sys2Proof/WellFormed.lean ====
section
/-!
DEFINITION. Which instructions the spec admits (R47, R48, R50): one check per thing the types of `Instr` leave open.
-/

namespace Sys2Proof

/-- The code of the double quote, which delimits a string of the notation and so cannot stand in one (R48). -/
abbrev quoteCode : Byte := 0x22

/-- A text the notation can write between double quotes. -/
def quotable (str : List Byte) : Bool := str.all (fun c => c != quoteCode)

/-- The levels a line admits (R8, R50): 4 bits for DB, 1 bit otherwise, and only 0 for RW. -/
def levelAdmitted : Line → Nibble → Bool
  | .db, _    => true
  | .rw, v    => v == 0
  | .rs, v    => v == 0 || v == 1
  | .e, v     => v == 0 || v == 1
  | .relay, v => v == 0 || v == 1

/-- Well-formed instructions: DRIVE's level fits its line; a reserved zone code is one of 101, 110, 111; a string can be
written; RENDER's string has at most 16 characters (R50). -/
def Instr.wf : Instr → Bool
  | .drive l v => levelAdmitted l v
  | .zoneReserved code => decide (5 ≤ code.toNat)
  | .putStr str => quotable str
  | .writeAt _ _ str => quotable str
  | .render _ str => quotable str && decide (str.length ≤ 16)
  | .busWord _ _ | .bytePair _ _ | .cmdClear | .cmdReset _ | .cmdEntryMode _ _ | .cmdDisplayCtrl _ _ _
  | .cmdFunctionSet _ _ _ | .cmdSetDdram _ | .data _ | .zoneIdle | .zoneIncrement | .zoneDecrement | .zoneReset
  | .zoneExpose | .wait _ | .sample | .note _ | .sendNib _ _ | .sendByte _ _ | .putCmd _ | .putChar _ | .gotoPos _ _
  | .init | .classify | .poll | .hInc | .hDec | .hReset | .hExpose | .hIdle | .banner | .boot => true

end Sys2Proof
end

