-- ==== Sys2Proof/Decode.lean ====
section
/-!
DEFINITION. The decoder, total on every encoded form and rejecting by name: the bus word, the bus-word pair, the command byte, the
data byte and the zone code by their bit patterns (spec/30_encoding.md R42 to R47), the operations by the notation of R48 with the
refusals of R50; after it the encoder, written from the same tables; last, the reading of a word as spec/opcode_table.json
numbers its bits.
-/

namespace Sys2Proof

/-! ## Characters, zone codes, register-selects -/

/-- The code of a character is its ASCII code (R46). -/
def code (c : Char) : Byte := BitVec.ofNat 8 c.toNat

/-- The codes of a text. -/
def codes (cs : List Char) : List Byte := cs.map code

/-- The 3-bit code of a zone (R47). -/
def zoneCode : Zone → ZoneCode
  | .idle      => 0b000
  | .increment => 0b001
  | .decrement => 0b010
  | .reset     => 0b011
  | .expose    => 0b100

/-- The zone of a code; 101, 110 and 111 are reserved and name none (R47). -/
def zoneOfCode (c : ZoneCode) : Option Zone :=
  if c = 0b000 then some .idle
  else if c = 0b001 then some .increment
  else if c = 0b010 then some .decrement
  else if c = 0b011 then some .reset
  else if c = 0b100 then some .expose
  else none

/-- RS = 0 selects Command, RS = 1 selects Data (R11). -/
def rsBit : RegSel → Bit
  | .command => 0
  | .data    => 1

/-- The register-select of a level of RS (R11). -/
def rsOfBit (b : Bit) : RegSel := if b = 0 then .command else .data

/-! ## Bit patterns (R42 to R45) -/

/-- The bus word `W = RS, RW, DB[3:0]`, RS in bit 5 (R42); RW is 0, the write level (R12). -/
def busWordBits (rs : RegSel) (n : Nibble) : BitVec 6 := rsBit rs ++ (0 : Bit) ++ n

/-- `v[7:4]`, the nibble sent first (R29). -/
def highNibble (v : Byte) : Nibble := v.extractLsb' 4 4

/-- `v[3:0]`, the nibble sent second (R29). -/
def lowNibble (v : Byte) : Nibble := v.extractLsb' 0 4

/-- The 12-bit pair of a byte, high word first (R43). -/
def bytePairBits (rs : RegSel) (v : Byte) : BitVec 12 := busWordBits rs (highNibble v) ++ busWordBits rs (lowNibble v)

/-- CMD_RESET `0000001x` (R44). -/
def cmdResetByte (x : Bit) : Byte := (0b0000001 : BitVec 7) ++ x
/-- CMD_ENTRY_MODE `000001is` (R44). -/
def cmdEntryModeByte (i sh : Bit) : Byte := (0b000001 : BitVec 6) ++ i ++ sh
/-- CMD_DISPLAY_CTRL `00001dcb` (R44). -/
def cmdDisplayCtrlByte (d c b : Bit) : Byte := (0b00001 : BitVec 5) ++ d ++ c ++ b
/-- CMD_FUNCTION_SET `001lnf00` (R44). -/
def cmdFunctionSetByte (l n f : Bit) : Byte := (0b001 : BitVec 3) ++ l ++ n ++ f ++ (0b00 : BitVec 2)
/-- CMD_SET_DDRAM `1aaaaaaa` (R44). -/
def cmdSetDdramByte (a : BitVec 7) : Byte := (0b1 : Bit) ++ a

/-- Bit k of a byte, as a field of one bit. -/
def bitOf (k : Nat) (v : Byte) : Bit := v.extractLsb' k 1

/-- One bus word: RW = 1 is a read transfer, which is refused (R50). -/
def decodeBusWord (w : BitVec 6) : Except ScriptError Instr :=
  if w.extractLsb' 4 1 = (0 : Bit) then .ok (.busWord (rsOfBit (w.extractLsb' 5 1)) (w.extractLsb' 0 4))
  else .error .readTransfer

/-- A bus-word pair: both words write, both with the same RS (R43). -/
def decodeBytePair (w : BitVec 12) : Except ScriptError Instr :=
  if w.extractLsb' 10 1 = (0 : Bit) ∧ w.extractLsb' 4 1 = (0 : Bit) then
    if w.extractLsb' 11 1 = (w.extractLsb' 5 1 : Bit) then
      .ok (.bytePair (rsOfBit (w.extractLsb' 11 1)) ((w.extractLsb' 6 4 : Nibble) ++ (w.extractLsb' 0 4 : Nibble)))
    else .error .mixedRegisterSelect
  else .error .readTransfer

/-- A command byte: the six forms of R44, each by the bits the table fixes; any other byte is none of them. -/
def decodeCmdByte (v : Byte) : Except ScriptError Instr :=
  if v = 0x01 then .ok .cmdClear
  else if v &&& 0xFE = 0x02 then .ok (.cmdReset (bitOf 0 v))
  else if v &&& 0xFC = 0x04 then .ok (.cmdEntryMode (bitOf 1 v) (bitOf 0 v))
  else if v &&& 0xF8 = 0x08 then .ok (.cmdDisplayCtrl (bitOf 2 v) (bitOf 1 v) (bitOf 0 v))
  else if v &&& 0xE3 = 0x20 then .ok (.cmdFunctionSet (bitOf 4 v) (bitOf 3 v) (bitOf 2 v))
  else if v &&& 0x80 = 0x80 then .ok (.cmdSetDdram (v.extractLsb' 0 7))
  else .error .unknownCommandForm

/-- A zone code: the five zones, and the three reserved codes, which are an instruction that faults (R47, R50). -/
def decodeZoneCode (c : ZoneCode) : Instr :=
  match zoneOfCode c with
  | some .idle      => .zoneIdle
  | some .increment => .zoneIncrement
  | some .decrement => .zoneDecrement
  | some .reset     => .zoneReset
  | some .expose    => .zoneExpose
  | none            => .zoneReserved c

/-! ## The notation of R48 -/

/-- The mnemonics of R48. -/
inductive Mnemonic where
  | drive | wait | sample | note | sendNib | sendByte | putCmd | putChar | putStr | gotoPos | init | writeAt | render
  | classify | poll | hInc | hDec | hReset | hExpose | hIdle | banner | boot
deriving DecidableEq, Repr

/-- How a mnemonic is spelled (R48). -/
def Mnemonic.spelling : Mnemonic → List Byte
  | .drive    => codes ['D', 'R', 'I', 'V', 'E']
  | .wait     => codes ['W', 'A', 'I', 'T']
  | .sample   => codes ['S', 'A', 'M', 'P', 'L', 'E']
  | .note     => codes ['N', 'O', 'T', 'E']
  | .sendNib  => codes ['S', 'E', 'N', 'D', 'N', 'I', 'B']
  | .sendByte => codes ['S', 'E', 'N', 'D', 'B', 'Y', 'T', 'E']
  | .putCmd   => codes ['P', 'U', 'T', 'C', 'M', 'D']
  | .putChar  => codes ['P', 'U', 'T', 'C', 'H', 'A', 'R']
  | .putStr   => codes ['P', 'U', 'T', 'S', 'T', 'R']
  | .gotoPos  => codes ['G', 'O', 'T', 'O']
  | .init     => codes ['I', 'N', 'I', 'T']
  | .writeAt  => codes ['W', 'R', 'I', 'T', 'E', 'A', 'T']
  | .render   => codes ['R', 'E', 'N', 'D', 'E', 'R']
  | .classify => codes ['C', 'L', 'A', 'S', 'S', 'I', 'F', 'Y']
  | .poll     => codes ['P', 'O', 'L', 'L']
  | .hInc     => codes ['H', '_', 'I', 'N', 'C']
  | .hDec     => codes ['H', '_', 'D', 'E', 'C']
  | .hReset   => codes ['H', '_', 'R', 'E', 'S', 'E', 'T']
  | .hExpose  => codes ['H', '_', 'E', 'X', 'P', 'O', 'S', 'E']
  | .hIdle    => codes ['H', '_', 'I', 'D', 'L', 'E']
  | .banner   => codes ['B', 'A', 'N', 'N', 'E', 'R']
  | .boot     => codes ['B', 'O', 'O', 'T']

/-- Every mnemonic of R48. -/
def Mnemonic.all : List Mnemonic :=
  [.drive, .wait, .sample, .note, .sendNib, .sendByte, .putCmd, .putChar, .putStr, .gotoPos, .init, .writeAt, .render,
   .classify, .poll, .hInc, .hDec, .hReset, .hExpose, .hIdle, .banner, .boot]

/-- The mnemonic a word spells, if any. -/
def Mnemonic.ofSpelling (word : List Byte) : Option Mnemonic := Mnemonic.all.find? (fun m => m.spelling == word)

/-- An operand of the notation (R48): a number, a name, a character in single quotes, a string in double quotes. -/
inductive Operand where
  | num (n : Nat)
  | name (word : List Byte)
  | chr (c : Byte)
  | str (s : List Byte)
deriving DecidableEq, Repr

/-- A blank between the parts of a line. -/
def isBlank (c : Byte) : Bool := c == 0x20 || c == 0x09

/-- The line without its leading blanks. -/
def skipBlanks (l : List Byte) : List Byte := l.dropWhile isBlank

/-- The codes of `0` to `9`. -/
def isDigit (c : Byte) : Bool := decide (0x30 ≤ c.toNat ∧ c.toNat ≤ 0x39)

/-- The codes of the letters, the digits and the underscore, of which names are made. -/
def isWordChar (c : Byte) : Bool :=
  isDigit c || decide (0x41 ≤ c.toNat ∧ c.toNat ≤ 0x5A) || decide (0x61 ≤ c.toNat ∧ c.toNat ≤ 0x7A) || c == 0x5F

/-- The value of a hexadecimal digit, in either case of its letters. -/
def hexValue (c : Byte) : Option Nat :=
  if isDigit c then some (c.toNat - 0x30)
  else if 0x41 ≤ c.toNat ∧ c.toNat ≤ 0x46 then some (c.toNat - 0x37)
  else if 0x61 ≤ c.toNat ∧ c.toNat ≤ 0x66 then some (c.toNat - 0x57)
  else none

/-- A decimal number, its most significant digit first. -/
def decimalValue (ds : List Byte) : Nat := ds.foldl (fun n d => 10 * n + (d.toNat - 0x30)) 0

/-- A hexadecimal number, its most significant digit first. -/
def hexNumber (ds : List Byte) : Nat := ds.foldl (fun n d => 16 * n + (hexValue d).getD 0) 0

/-- The operand a double quote opens: the characters up to the next double quote. -/
def parseStr (l : List Byte) : Except ScriptError (Operand × List Byte) :=
  match l.dropWhile (fun c => c != quoteCode) with
  | _ :: rest => .ok (.str (l.takeWhile (fun c => c != quoteCode)), rest)
  | []        => .error .badOperand

/-- The operand a single quote opens: one character, whatever it is, and a single quote. -/
def parseChr : List Byte → Except ScriptError (Operand × List Byte)
  | c :: q :: rest => if q = 0x27 then .ok (.chr c, rest) else .error .badOperand
  | [_] | []       => .error .badOperand

/-- The digits of a hexadecimal number, at least one. -/
def parseHex (l : List Byte) : Except ScriptError (Operand × List Byte) :=
  match l.takeWhile (fun c => (hexValue c).isSome) with
  | []      => .error .badOperand
  | d :: ds => .ok (.num (hexNumber (d :: ds)), l.dropWhile (fun c => (hexValue c).isSome))

/-- The operand at the head of a line (R48), and the rest of the line. -/
def parseOperand : List Byte → Except ScriptError (Operand × List Byte)
  | [] => .error .badOperand
  | c :: l =>
    if c = quoteCode then parseStr l
    else if c = 0x27 then parseChr l
    else if c = 0x30 ∧ l.head? = some 0x78 then parseHex l.tail
    else if isDigit c then .ok (.num (decimalValue (c :: l.takeWhile isDigit)), l.dropWhile isDigit)
    else if isWordChar c then .ok (.name (c :: l.takeWhile isWordChar), l.dropWhile isWordChar)
    else .error .badOperand

/-- Operands separated by commas, up to the end of the line or to the semicolon that starts a comment (R48). The first argument
bounds the number of operands; a line's length is bound enough. -/
def parseOperandList : Nat → List Byte → Except ScriptError (List Operand)
  | 0, _ => .error .badOperand
  | fuel + 1, l =>
    match parseOperand (skipBlanks l) with
    | .error err => .error err
    | .ok (op, rest) =>
      match skipBlanks rest with
      | [] => .ok [op]
      | c :: l' =>
        if c = 0x3B then .ok [op]
        else if c = 0x2C then
          match parseOperandList fuel l' with
          | .error err => .error err
          | .ok ops    => .ok (op :: ops)
        else .error .badOperand

/-- The operands of a line after its mnemonic: none, or a list of them. -/
def parseOperands (l : List Byte) : Except ScriptError (List Operand) :=
  match skipBlanks l with
  | [] => .ok []
  | c :: l' => if c = 0x3B then .ok [] else parseOperandList (l'.length + 1) (c :: l')

/-- The spelling of a register-select operand (R48). -/
def regSelSpelling : RegSel → List Byte
  | .command => codes ['C', 'M', 'D']
  | .data    => codes ['D', 'A', 'T']

/-- The spelling of a line name (R48). -/
def lineSpelling : Line → List Byte
  | .db    => codes ['D', 'B']
  | .rs    => codes ['R', 'S']
  | .rw    => codes ['R', 'W']
  | .e     => codes ['E']
  | .relay => codes ['R', 'E', 'L', 'A', 'Y']

/-- The spelling of an error kind (R80). -/
def errKindSpelling : ErrKind → List Byte
  | .addressOutOfRange =>
    codes ['A', 'd', 'd', 'r', 'e', 's', 's', 'O', 'u', 't', 'O', 'f', 'R', 'a', 'n', 'g', 'e']
  | .sampleOutOfCalibratedBand =>
    codes ['S', 'a', 'm', 'p', 'l', 'e', 'O', 'u', 't', 'O', 'f', 'C', 'a', 'l', 'i', 'b', 'r', 'a', 't', 'e', 'd', 'B', 'a',
      'n', 'd']

/-- A register-select operand: `CMD` or `DAT`, or refused (R50). -/
def asRegSel : Operand → Except ScriptError RegSel
  | .name w =>
    if w = regSelSpelling .command then .ok .command
    else if w = regSelSpelling .data then .ok .data
    else .error .badRegisterSelect
  | .num _ | .chr _ | .str _ => .error .badRegisterSelect

/-- A line name: one of the five, or refused (R50). -/
def asLine : Operand → Except ScriptError Line
  | .name w =>
    match [Line.db, .rs, .rw, .e, .relay].find? (fun l => lineSpelling l == w) with
    | some l => .ok l
    | none   => .error .badLineName
  | .num _ | .chr _ | .str _ => .error .badLineName

/-- An error kind: one of the two, or refused. -/
def asErrKind : Operand → Except ScriptError ErrKind
  | .name w =>
    match [ErrKind.addressOutOfRange, .sampleOutOfCalibratedBand].find? (fun k => errKindSpelling k == w) with
    | some k => .ok k
    | none   => .error .badErrorKind
  | .num _ | .chr _ | .str _ => .error .badErrorKind

/-- A number below a bound, or refused under the given name: a wider value is not truncated (R50, R55). -/
def asNumBelow (bound : Nat) (err : ScriptError) : Operand → Except ScriptError Nat
  | .num n => if n < bound then .ok n else .error err
  | .name _ | .chr _ | .str _ => .error .badOperand

/-- Any number. -/
def asNum : Operand → Except ScriptError Nat
  | .num n => .ok n
  | .name _ | .chr _ | .str _ => .error .badOperand

/-- A character in single quotes. -/
def asChr : Operand → Except ScriptError Byte
  | .chr c => .ok c
  | .num _ | .name _ | .str _ => .error .badOperand

/-- A string in double quotes. -/
def asStr : Operand → Except ScriptError (List Byte)
  | .str s => .ok s
  | .num _ | .name _ | .chr _ => .error .badOperand

/-- DRIVE's instruction: a level the line does not admit is refused, and RW = 1 by its own name (R50). -/
def buildDrive (l : Line) (v : Nat) : Except ScriptError Instr :=
  if v < 16 ∧ levelAdmitted l (BitVec.ofNat 4 v) = true then .ok (.drive l (BitVec.ofNat 4 v))
  else if l = .rw ∧ v = 1 then .error .readTransfer
  else .error .badLevel

/-- RENDER's instruction: a string above 16 characters is refused (R50); the line is any number, since RENDER is WRITEAT at column 0
of it (R49; DEDUCED, log entry 8). -/
def buildRender (l : Nat) (s : List Byte) : Except ScriptError Instr :=
  if s.length ≤ 16 then .ok (.render l s) else .error .renderTooLong

/-- An operation with no operand. -/
def buildPlain (i : Instr) : List Operand → Except ScriptError Instr
  | [] => .ok i
  | _ :: _ => .error .wrongOperandCount

/-- The instruction of a mnemonic and its operands, or the name under which R50 refuses the line. -/
def buildInstr : Mnemonic → List Operand → Except ScriptError Instr
  | .drive, [l, v] => do return (← buildDrive (← asLine l) (← asNum v))
  | .drive, _ => .error .wrongOperandCount
  | .wait, [d] => do return .wait (← asNum d)
  | .wait, _ => .error .wrongOperandCount
  | .note, [k] => do return .note (← asErrKind k)
  | .note, _ => .error .wrongOperandCount
  | .sendNib, [rs, n] => do return .sendNib (← asRegSel rs) (BitVec.ofNat 4 (← asNumBelow 16 .nibbleTooWide n))
  | .sendNib, _ => .error .wrongOperandCount
  | .sendByte, [rs, v] => do return .sendByte (← asRegSel rs) (BitVec.ofNat 8 (← asNumBelow 256 .byteTooWide v))
  | .sendByte, _ => .error .wrongOperandCount
  | .putCmd, [v] => do return .putCmd (BitVec.ofNat 8 (← asNumBelow 256 .byteTooWide v))
  | .putCmd, _ => .error .wrongOperandCount
  | .putChar, [ch] => do return .putChar (← asChr ch)
  | .putChar, _ => .error .wrongOperandCount
  | .putStr, [s] => do return .putStr (← asStr s)
  | .putStr, _ => .error .wrongOperandCount
  | .gotoPos, [c, l] => do return .gotoPos (← asNum c) (← asNum l)
  | .gotoPos, _ => .error .wrongOperandCount
  | .writeAt, [c, l, s] => do return .writeAt (← asNum c) (← asNum l) (← asStr s)
  | .writeAt, _ => .error .wrongOperandCount
  | .render, [l, s] => do return (← buildRender (← asNum l) (← asStr s))
  | .render, _ => .error .wrongOperandCount
  | .sample, ops => buildPlain .sample ops
  | .init, ops => buildPlain .init ops
  | .classify, ops => buildPlain .classify ops
  | .poll, ops => buildPlain .poll ops
  | .hInc, ops => buildPlain .hInc ops
  | .hDec, ops => buildPlain .hDec ops
  | .hReset, ops => buildPlain .hReset ops
  | .hExpose, ops => buildPlain .hExpose ops
  | .hIdle, ops => buildPlain .hIdle ops
  | .banner, ops => buildPlain .banner ops
  | .boot, ops => buildPlain .boot ops

/-- One line of the notation: the mnemonic, then its operands (R48). -/
def decodeLine (line : List Byte) : Except ScriptError Instr :=
  let l := skipBlanks line
  match Mnemonic.ofSpelling (l.takeWhile isWordChar) with
  | none => .error .unknownMnemonic
  | some m =>
    match parseOperands (l.dropWhile isWordChar) with
    | .error err => .error err
    | .ok ops    => buildInstr m ops

/-- THE DECODER: total on every encoded form, rejecting by name. -/
def decode : Encoded → Except ScriptError Instr
  | .busWord w   => decodeBusWord w
  | .bytePair w  => decodeBytePair w
  | .cmdByte v   => decodeCmdByte v
  | .dataByte c  => .ok (.data c)
  | .zoneCode c  => .ok (decodeZoneCode c)
  | .operation l => decodeLine l

/-- THE MARK of R50: an operation outside the block's program, which is a PUTCMD of a byte of none of the six forms of R44. It runs
all the same: the byte is sent as given. A byte has a form when it fits the form's bit pattern, whatever its field bits (DESIGN CHOICE,
log entry 32). -/
def Instr.outsideProgram : Instr → Bool
  | .putCmd v =>
    match decodeCmdByte v with
    | .ok _    => false
    | .error _ => true
  | .busWord _ _ | .bytePair _ _ | .cmdClear | .cmdReset _ | .cmdEntryMode _ _ | .cmdDisplayCtrl _ _ _
  | .cmdFunctionSet _ _ _ | .cmdSetDdram _ | .data _ | .zoneIdle | .zoneIncrement | .zoneDecrement | .zoneReset
  | .zoneExpose | .zoneReserved _ | .drive _ _ | .wait _ | .sample | .note _ | .sendNib _ _ | .sendByte _ _ | .putChar _
  | .putStr _ | .gotoPos _ _ | .init | .writeAt _ _ _ | .render _ _ | .classify | .poll | .hInc | .hDec | .hReset
  | .hExpose | .hIdle | .banner | .boot => false

/-! ## The encoder -/

/-- The decimal digits of a number, least significant first; the first argument bounds their number. -/
def digitsUpTo : Nat → Nat → List Byte
  | 0, _ => []
  | fuel + 1, n => BitVec.ofNat 8 (0x30 + n % 10) :: (if n < 10 then [] else digitsUpTo fuel (n / 10))

/-- A number as the notation writes it: decimal, without leading zeros. -/
def numText (n : Nat) : List Byte := (digitsUpTo (n + 1) n).reverse

/-- An operand as the notation writes it. -/
def operandText : Operand → List Byte
  | .num n  => numText n
  | .name w => w
  | .chr c  => [0x27, c, 0x27]
  | .str s  => 0x22 :: (s ++ [0x22])

/-- Operands separated by a comma and a space. -/
def operandsText : List Operand → List Byte
  | [] => []
  | [op] => operandText op
  | op :: ops => operandText op ++ [0x2C, 0x20] ++ operandsText ops

/-- A line of the notation: the mnemonic, a space, the operands. -/
def lineText (m : Mnemonic) : List Operand → List Byte
  | []  => m.spelling
  | ops => m.spelling ++ [0x20] ++ operandsText ops

/-- An operation's line. -/
def operation (m : Mnemonic) (ops : List Operand) : Encoded := .operation (lineText m ops)

/-- THE ENCODER, from the same tables (R42 to R48). -/
def encode : Instr → Encoded
  | .busWord rs n          => .busWord (busWordBits rs n)
  | .bytePair rs v         => .bytePair (bytePairBits rs v)
  | .cmdClear              => .cmdByte 0b00000001
  | .cmdReset x            => .cmdByte (cmdResetByte x)
  | .cmdEntryMode i sh     => .cmdByte (cmdEntryModeByte i sh)
  | .cmdDisplayCtrl d c b  => .cmdByte (cmdDisplayCtrlByte d c b)
  | .cmdFunctionSet l n f  => .cmdByte (cmdFunctionSetByte l n f)
  | .cmdSetDdram a         => .cmdByte (cmdSetDdramByte a)
  | .data c                => .dataByte c
  | .zoneIdle              => .zoneCode (zoneCode .idle)
  | .zoneIncrement         => .zoneCode (zoneCode .increment)
  | .zoneDecrement         => .zoneCode (zoneCode .decrement)
  | .zoneReset             => .zoneCode (zoneCode .reset)
  | .zoneExpose            => .zoneCode (zoneCode .expose)
  | .zoneReserved c        => .zoneCode c
  | .drive l v             => operation .drive [.name (lineSpelling l), .num v.toNat]
  | .wait d                => operation .wait [.num d]
  | .sample                => operation .sample []
  | .note k                => operation .note [.name (errKindSpelling k)]
  | .sendNib rs n          => operation .sendNib [.name (regSelSpelling rs), .num n.toNat]
  | .sendByte rs v         => operation .sendByte [.name (regSelSpelling rs), .num v.toNat]
  | .putCmd v              => operation .putCmd [.num v.toNat]
  | .putChar ch            => operation .putChar [.chr ch]
  | .putStr s              => operation .putStr [.str s]
  | .gotoPos c l           => operation .gotoPos [.num c, .num l]
  | .init                  => operation .init []
  | .writeAt c l s         => operation .writeAt [.num c, .num l, .str s]
  | .render l s            => operation .render [.num l, .str s]
  | .classify              => operation .classify []
  | .poll                  => operation .poll []
  | .hInc                  => operation .hInc []
  | .hDec                  => operation .hDec []
  | .hReset                => operation .hReset []
  | .hExpose               => operation .hExpose []
  | .hIdle                 => operation .hIdle []
  | .banner                => operation .banner []
  | .boot                  => operation .boot []

/-! ## Words as the opcode table numbers them -/

/-- The bytes of a word, the first in its least significant bits. -/
def bytesOf : Nat → Nat → List Byte
  | 0, _ => []
  | n + 1, w => BitVec.ofNat 8 w :: bytesOf n (w / 256)

/-- The encoded form a table word stands for. The table's rows of 3, 6 and 12 bits are told by their width. Its command bytes, its
data byte and its zone codes overlap in 8 bits, with nothing in the bits to tell them apart: the row that fixes most bits is
taken (a command form; then the zone code 000; then a data byte). Every longer word is a line of the notation, its first
character in the lowest bits. DESIGN CHOICE, log entry 9. -/
def tableItem (nbits w : Nat) : Encoded :=
  if nbits = 3 then .zoneCode (BitVec.ofNat 3 w)
  else if nbits = 6 then .busWord (BitVec.ofNat 6 w)
  else if nbits = 8 then
    match decodeCmdByte (BitVec.ofNat 8 w) with
    | .ok _    => .cmdByte (BitVec.ofNat 8 w)
    | .error _ => if BitVec.ofNat 8 w = (0 : Byte) then .zoneCode 0b000 else .dataByte (BitVec.ofNat 8 w)
  else if nbits = 12 ∨ nbits = 16 then .bytePair (BitVec.ofNat 12 w)
  else .operation (bytesOf (nbits / 8) w)

/-- The instruction the decoder reads from a word whose bits are numbered as spec/opcode_table.json numbers them. -/
def decodeTableWord (nbits w : Nat) : Option Instr :=
  match decode (tableItem nbits w) with
  | .ok i    => some i
  | .error _ => none

end Sys2Proof
end

