-- ==== Sys2Proof/Machine/State.lean ====
section
/-!
DEFINITION. The state of the block as plain data (spec/10_state.md), the reasons a step can stop, and the machine right after
reset (spec/70_reset_and_hazards.md R93).
-/

namespace Sys2Proof.Machine

/-- One observable event of the trace, stamped with the time at which its primitive is performed (R22). -/
inductive Event where
  /-- `Set(L, v, t)`. -/
  | set (l : Line) (v : Nibble) (t : Nat)
  /-- `Wait(d, t)`, t the time the wait starts. -/
  | wait (d t : Nat)
  /-- `Sample(s, t)`. -/
  | sample (v t : Nat)
  /-- `Err(k, t)`. -/
  | err (k : ErrKind) (t : Nat)
deriving DecidableEq, Repr

/-- One primitive action: a primitive of R8 or a register write, the unit of the sequencer (R20). -/
inductive Action where
  | drive (l : Line) (v : Nibble)
  | wait (d : Nat)
  /-- `SAMPLE <- sample()`. -/
  | sample
  | note (k : ErrKind)
  /-- `ZONE <- classify(SAMPLE)`. -/
  | classify
  | setEt (v : Seconds)
  | setCur (c : Nibble) (l : Bit)
  | setTick (v : Seconds)
deriving DecidableEq, Repr

/-- The sequencer position `SEQ`: a phase and the index of the phase's next primitive action (R20). -/
inductive Seq where
  | boot (k : Nat)
  | poll (k : Nat)
  | handle (z : Zone) (k : Nat)
deriving DecidableEq, Repr

/-- How the environment lets time pass. -/
inductive Timing where
  /-- Every duration is a draw (R85, R86). -/
  | free
  /-- Every wait exceeds its nominal length by `excess` microseconds and everything else takes none: `fixed 0` is the
  deterministic timing of R85. -/
  | fixed (excess : Nat)
deriving DecidableEq, Repr

/-- Where within a step the platform's reset falls (R92, 'at any point'; log entry 14): after this many primitive actions of what the
step performs, and this many microseconds into the wait that comes next, if a wait does. -/
structure ResetPoint where
  after : Nat
  into  : Nat
deriving DecidableEq, Repr

/-- The environment's side of the machine (R92), as plain data that steps read. -/
structure Env where
  /-- The values the environment returns to the next `sample()` reads (a sample script, R48); when the list is used up each
  further read is a free draw. -/
  samples : List Nat
  timing  : Timing
  /-- MODEL's own: how many draws have been made, so that each draw is a fresh free value. -/
  draws   : Nat
  /-- The platform resets the block in its next step, at this point of it (R92, R93). -/
  reset   : Option ResetPoint
deriving DecidableEq, Repr

/-- The state. Lines, registers, sequencer, time and trace are the spec's (R10 to R22); `cfg` is the configuration record of R24,
which no step writes (DESIGN CHOICE, log entry 1); `phaseEt`, `script` and `env` are the MODEL's own (log entries 13, 3, 18). The
registers without a value at reset are the spec's (R93; DEDUCED, log entry 2). -/
structure State where
  cfg     : Config
  /-- `DB[3:0]`, the four display data lines (R10). -/
  db      : Nibble
  /-- `RS`, 0 Command, 1 Data (R11). -/
  rs      : Bit
  /-- `RW`, 0 write (R12). -/
  rw      : Bit
  /-- `E`, 1 asserted (R13). -/
  e       : Bit
  /-- `RELAY`, 1 Energized (R14). -/
  relay   : Bit
  /-- `ET`, ExposureTime (R15). -/
  et      : Seconds
  /-- `CUR_COL` (R16). -/
  curCol  : Nibble
  /-- `CUR_LINE` (R16). -/
  curLine : Bit
  /-- `SAMPLE`; it has no value until the first sample (R17, R93). -/
  sample  : Option Nat
  /-- `ZONE` as its 3-bit code; it has no value until the first `classify` (R18, R93). -/
  zone    : Option ZoneCode
  /-- `TICK`; it has no value until the first exposure (R19, R93). -/
  tick    : Option Seconds
  /-- `SEQ` (R20). -/
  seq     : Seq
  /-- `T`, microseconds since the last reset (R21). -/
  time    : Nat
  /-- `TRACE`, oldest first (R22). -/
  trace   : List Event
  /-- MODEL's own: `ET` at the start of the running phase; a phase's list of actions is a function of the register values at its
  start (R20). -/
  phaseEt : Seconds
  /-- MODEL's own: the operations of a script still to be run (R48); empty when the block runs its own program. -/
  script  : List Encoded
  env     : Env
deriving DecidableEq, Repr

/-- The reasons the block stops with a fault. The block itself raises no exception (R79); each of these is a case for which the
spec says that a model faults. All are safe: the machine stops where the hardware has no defined behaviour. -/
inductive Fault where
  /-- `classify` reads `SAMPLE` before it has a value: "a read before that faults" (R17, I16). Raised by CLASSIFY. Safe. -/
  | sampleUnwritten
  /-- The dispatch reads `ZONE` before it has a value: I16 says "fault". Raised by the dispatch, which no run from reset reaches with
  `ZONE` unwritten (R18). Safe. -/
  | zoneUnwritten
  /-- A reserved zone code meets the dispatch (R50, I11). Raised by ZONE_RESERVED and by the dispatch. Safe. -/
  | reservedZone (code : ZoneCode)
  /-- `dec(v)` with v above 99 (R61, I15). Raised by H_INC, H_DEC and H_EXPOSE. Safe. -/
  | decOutOfDomain (v : Nat)
deriving DecidableEq, Repr

/-- The reasons an input is refused before it runs (spec/93_implementation_defined.md, 'refuse'). All are safe. -/
inductive Refusal where
  /-- An instruction without a meaning; no arm of this model answers so. -/
  | notModelled (mnemonic : String)
  /-- The notation or an encoding refuses the next operation of the script, by name (R50, I14). Raised by the step. Safe. -/
  | badScript (err : ScriptError)
  /-- A configuration the spec does not admit: its bands overlap (R6, I21), or a nibble timing is below 10 microseconds (R5). Raised
  by the step. Safe. -/
  | badConfiguration
  /-- DRIVE RW, 1: a read transfer (R50, I12). Raised by DRIVE. Safe. -/
  | readTransfer
  /-- DRIVE with a level its line does not admit (R50, I14). Raised by DRIVE. Safe. -/
  | badLevel (l : Line) (v : Nibble)
  /-- A text longer than 16 characters, given to `renderLine` (R50, R63). Raised by RENDER. Safe. -/
  | renderTooLong (len : Nat)
  /-- The sample script offers a value above SAMPLE_MAX, which the environment cannot return (R88, R92). Raised by SAMPLE and
  POLL. Safe. -/
  | sampleOutOfRange (v : Nat)
deriving DecidableEq, Repr

/-- The block at reset, for a configuration, an environment and a script (R93; log entry 25). -/
def State.atReset (cfg : Config) (env : Env) (script : List Encoded) : State where
  cfg     := cfg
  db      := 0
  rs      := 0
  rw      := 0
  e       := 0
  relay   := 0
  et      := cfg.etReset
  curCol  := 0
  curLine := 0
  sample  := none
  zone    := none
  tick    := none
  seq     := .boot 0
  time    := 0
  trace   := []
  phaseEt := cfg.etReset
  script  := script
  env     := env

/-- An environment that draws everything (DESIGN CHOICE, log entry 18). -/
def Env.free : Env := { samples := [], timing := .free, draws := 0, reset := none }

/-- The machine right after reset, with the default parameters and a free environment (R93). -/
def State.reset : State := State.atReset Config.default Env.free []

end Sys2Proof.Machine
end

