-- ==== Sys2Proof/Machine/Flags.lean ====
section
/-!
DEFINITION. The block has no status flags, condition codes or predicates (spec/10_state.md R23). What selects between paths is
written here: the classification of a sample by the band table, the range test of `gotoPosition`, the clamps of the Increment and
Decrement handlers, and the test that a sample lies above the calibrated range. None of them leaves a flag behind.
-/

namespace Sys2Proof.Machine

/-! ## The band table (R65) -/

/-- A sample lies in a band: both ends are excluded; a band without a lower end holds every sample below its upper end (R65). -/
def bandHolds (b : Band) (s : Nat) : Bool :=
  (match b.above with
   | none   => true
   | some a => decide (a < s)) && decide (s < b.below)

/-- `classify` (R66): the zone of the band that holds the sample, Idle when none does. -/
def classifyWith (bands : List Band) (s : Nat) : Zone :=
  match bands.find? (fun b => bandHolds b s) with
  | some b => b.zone
  | none   => .idle

/-- The largest sample of the calibrated range (R68). -/
def calibratedMax : Nat := 1023

/-- `classify(s)` with the configured band table (R66); a sample above the calibrated range is Idle, whatever the bands hold (R68,
R80). -/
def classify (cfg : Config) (s : Nat) : Zone := if calibratedMax < s then .idle else classifyWith cfg.bands s

/-- The lowest sample of a band. -/
def bandLow (b : Band) : Nat :=
  match b.above with
  | none   => 0
  | some a => a + 1

/-- Two bands share no sample. -/
def bandsApart (a b : Band) : Bool := decide (min a.below b.below ≤ max (bandLow a) (bandLow b))

/-- The bands are pairwise disjoint (R6, R65). -/
def bandsDisjoint : List Band → Bool
  | []      => true
  | b :: bs => bs.all (bandsApart b) && bandsDisjoint bs

/-! ## The other conditions -/

/-- The in-range positions of `gotoPosition` (R59): a cell of the display, column below COLS and line below LINES (R28), and one that
`CUR` can hold, column at most 15 and line at most 1 (R16). DEDUCED, log entry 22. -/
def positionInRange (cfg : Config) (c l : Nat) : Bool :=
  decide (c < cfg.cols) && decide (c ≤ 15) && decide (l < cfg.lines) && decide (l ≤ 1)

/-- The Increment handler's test `ET < ET_MAX` (R71). -/
def mayIncrement (cfg : Config) (et : Seconds) : Bool := decide (et < cfg.etMax)

/-- The Decrement handler's test `ET > ET_MIN` (R72). -/
def mayDecrement (cfg : Config) (et : Seconds) : Bool := decide (cfg.etMin < et)

/-- `ET` after the Increment handler: one more, clamped at ET_MAX (R71). -/
def incremented (cfg : Config) (et : Seconds) : Seconds := if mayIncrement cfg et then et + 1 else et

/-- `ET` after the Decrement handler: one less, clamped at ET_MIN (R72). -/
def decremented (cfg : Config) (et : Seconds) : Seconds := if mayDecrement cfg et then et - 1 else et

/-- A sample above the calibrated range, which is noted (R68, R69, R82). -/
def outOfCalibratedBand : Option Nat → Bool
  | none   => false
  | some s => decide (calibratedMax < s)

/-- SAMPLE_MAX, the largest sample of the configured width (R5). -/
def sampleMax (cfg : Config) : Nat := 2 ^ cfg.sampleBits - 1

/-- The configurations the block can be built with: disjoint bands (R6), and nibble timings of at least 10 microseconds (R5, R97).
Every other parameter is free (R6). DEDUCED, log entry 17. -/
def configOk (cfg : Config) : Bool :=
  bandsDisjoint cfg.bands && decide (10 ≤ cfg.tSu) && decide (10 ≤ cfg.tPw) && decide (10 ≤ cfg.tH)

end Sys2Proof.Machine
end

