-- ==== Sys2Proof/Machine/Operands.lean ====
section
/-!
DEFINITION. The operand forms: the address a position stands for and its command byte (spec/30_encoding.md R45), the decimal text of
a number (spec/41_display_driver.md R61), the block's fixed texts (R46), the padding of a line (R63), and the bus word the lines
show (R42).
-/

namespace Sys2Proof.Machine

/-- LINE_BASE[l] (R28). -/
def lineBase (cfg : Config) (l : Nat) : BitVec 7 := if l = 0 then cfg.lineBase0 else cfg.lineBase1

/-- The display address of a cell, 7 bits wide (R28). -/
def cellAddress (cfg : Config) (c l : Nat) : BitVec 7 := lineBase cfg l + BitVec.ofNat 7 c

/-- The command byte of a cell: the set-address command with the cell's address, zero-extended (R45). -/
def setAddressByte (cfg : Config) (c l : Nat) : Byte := cfg.cmdSetDdram ||| (cellAddress cfg c l).setWidth 8

/-- The character of a digit. -/
def digitChar (n : Nat) : Byte := BitVec.ofNat 8 (0x30 + n)

/-- `dec(v)`: one or two digits, without a leading zero; no text above 99 (R61). -/
def decText (v : Nat) : Option (List Byte) :=
  if 99 < v then none
  else if v < 10 then some [digitChar v]
  else some [digitChar (v / 10), digitChar (v % 10)]

/-- The text " sec exposure" (R46, R71). -/
def textSecExposure : List Byte := codes [' ', 's', 'e', 'c', ' ', 'e', 'x', 'p', 'o', 's', 'u', 'r', 'e']
/-- The text " sec last exp" (R46, R75). -/
def textSecLastExp : List Byte := codes [' ', 's', 'e', 'c', ' ', 'l', 'a', 's', 't', ' ', 'e', 'x', 'p']
/-- The text "RESET" (R46, R73). -/
def textReset : List Byte := codes ['R', 'E', 'S', 'E', 'T']
/-- The text "ENLARGER" (R46, R74). -/
def textEnlarger : List Byte := codes ['E', 'N', 'L', 'A', 'R', 'G', 'E', 'R']
/-- The text "TIMER V1" (R46, R74). -/
def textTimerV1 : List Byte := codes ['T', 'I', 'M', 'E', 'R', ' ', 'V', '1']

/-- A text padded with spaces to the width of a display line (R63); a text that is longer than COLS gets none (DESIGN CHOICE, log
entry 22). -/
def padLine (cfg : Config) (str : List Byte) : List Byte := str ++ List.replicate (cfg.cols - str.length) (code ' ')

/-- The level of a 1-bit line, from the low bit of a level operand. -/
def bitLevel (v : Nibble) : Bit := v.setWidth 1

/-- A 1-bit level as a level operand. -/
def levelOfBit (b : Bit) : Nibble := b.setWidth 4

/-- The bus word the lines show (R42). -/
def State.busWord (s : State) : BitVec 6 := s.rs ++ s.rw ++ s.db

/-- The physical level of the relay line: RELAY_ACTIVE_LEVEL when `RELAY` is 1, the other level when it is 0 (R14). -/
def State.relayLevel (s : State) : Bit :=
  if s.relay = 1 then s.cfg.relayActiveLevel else ~~~ s.cfg.relayActiveLevel

end Sys2Proof.Machine
end

