-- ==== Sys2Proof/Machine/Ops.lean ====
section
/-!
DEFINITION. The named operations every meaning is written over: the register and line writes, the passing of time
(spec/60_exceptions.md R85, R86), the primitives of spec/00_scope.md R8, the performing of a list of primitive actions
(spec/10_state.md R20), the dispatch on `ZONE` (spec/43_exposure_controller.md R69), and the reset of the block
(spec/70_reset_and_hazards.md R93). The block takes no exception and returns from none (R79): a reset is the one event from outside.
-/

namespace Sys2Proof.Machine

/-- What a meaning answers. -/
abbrev Result := Host.Outcome State Fault Refusal

/-- Go on with the next state, or stop as before. -/
def andThen (r : Result) (f : State → Result) : Result :=
  match r with
  | .next s    => f s
  | .fault x   => .fault x
  | .refused x => .refused x

/-! ## Writes -/

/-- Append one event to the trace (R22). -/
def State.record (ev : Event) (s : State) : State := { s with trace := s.trace ++ [ev] }

/-- Let `d` microseconds pass, by one draw of the environment. -/
def State.elapse (d : Nat) (s : State) : State :=
  { s with time := s.time + d, env := { s.env with draws := s.env.draws + 1 } }

/-- Set one line to a level (R10 to R14). -/
def State.setLine (l : Line) (v : Nibble) (s : State) : State :=
  match l with
  | .db    => { s with db := v }
  | .rs    => { s with rs := bitLevel v }
  | .rw    => { s with rw := bitLevel v }
  | .e     => { s with e := bitLevel v }
  | .relay => { s with relay := bitLevel v }

/-- The level of a line, as a level operand. -/
def State.lineLevel (s : State) : Line → Nibble
  | .db    => s.db
  | .rs    => levelOfBit s.rs
  | .rw    => levelOfBit s.rw
  | .e     => levelOfBit s.e
  | .relay => levelOfBit s.relay

/-- Write `ET`. -/
def State.setEt (v : Seconds) (s : State) : State := { s with et := v }
/-- Write `CUR`. -/
def State.setCur (c : Nibble) (l : Bit) (s : State) : State := { s with curCol := c, curLine := l }
/-- Write `SAMPLE`. -/
def State.setSample (v : Nat) (s : State) : State := { s with sample := some v }
/-- Write `ZONE`. -/
def State.setZone (c : ZoneCode) (s : State) : State := { s with zone := some c }
/-- Write `TICK`. -/
def State.setTick (v : Seconds) (s : State) : State := { s with tick := some v }
/-- Write `SEQ`. -/
def State.setSeq (q : Seq) (s : State) : State := { s with seq := q }
/-- Keep `ET` as the running phase found it (R20). -/
def State.latch (s : State) : State := { s with phaseEt := s.et }
/-- The samples still to come from the environment. -/
def State.setSamples (vs : List Nat) (s : State) : State := { s with env := { s.env with samples := vs } }
/-- The operations still to come from the script. -/
def State.setScript (ops : List Encoded) (s : State) : State := { s with script := ops }

/-! ## Time (R85, R86) -/

/-- A draw held to a bound, where one is given. -/
def boundedBy (bound : Option Nat) (x : Nat) : Nat :=
  match bound with
  | none   => x
  | some b => min x b

/-- By how much the next wait exceeds its nominal length: at most DELAY_EXCESS (R85). -/
def State.waitExcess (s : State) : Nat :=
  boundedBy s.cfg.delayExcess
    (match s.env.timing with
     | .free         => Config.freeExcess s.env.draws
     | .fixed excess => excess)

/-- How long the next action that is no wait takes: a draw, 0 in deterministic timing (R86). -/
def State.actionDuration (s : State) : Nat :=
  match s.env.timing with
  | .free    => Config.freeDuration s.env.draws
  | .fixed _ => 0

/-- The time of an action that is no wait passes (R86). -/
def State.passTime (s : State) : State := s.elapse s.actionDuration

/-- How many cycles of the block's clock `wait(d)` counts: `ceil(d x CYCLES_PER_US)` (R85). -/
def waitCycles (cfg : Config) (d : Nat) : Nat :=
  (d * cfg.cyclesPerUs.num + cfg.cyclesPerUs.denPred) / (cfg.cyclesPerUs.denPred + 1)

/-- `n` cycles of a clock of `clock` cycles per microsecond last at least `d` real microseconds (R101). -/
def cyclesLast (clock : Ratio) (n d : Nat) : Prop := d * clock.num ≤ n * (clock.denPred + 1)

/-! ## The primitives (R8, R22) -/

/-- `drive(L, v)`: the event, the level, and the time it takes. -/
def drivePrim (l : Line) (v : Nibble) (s : State) : State := ((s.record (.set l v s.time)).setLine l v).passTime

/-- `wait(d)`: the event, then a time between d and d + DELAY_EXCESS (R85). -/
def waitPrim (d : Nat) (s : State) : State := (s.record (.wait d s.time)).elapse (d + s.waitExcess)

/-- `note(k)`: the event, with no other effect (R80); its time is the draw of R86 (DEDUCED, log entry 7). -/
def notePrim (k : ErrKind) (s : State) : State := (s.record (.err k s.time)).passTime

/-- A free answer of the converter, in [0, SAMPLE_MAX] (R88). -/
def State.freeSample (s : State) : Nat := Config.freeSample s.cfg.adcChannel s.env.draws % 2 ^ s.cfg.sampleBits

/-- `SAMPLE <- sample()` with the value the environment returns: the event, the register, and the time it takes (R88). -/
def readSample (v : Nat) (s : State) : State := ((s.record (.sample v s.time)).setSample v).passTime

/-- `SAMPLE <- sample()` (R88): the next value of the sample script, or a free one (log entry 6); a value no sample can have is
refused (DEDUCED, log entry 10). -/
def samplePrim (s : State) : Result :=
  match s.env.samples with
  | []      => .next (readSample s.freeSample s)
  | v :: vs =>
    if v ≤ sampleMax s.cfg then .next (readSample v (s.setSamples vs)) else .refused (.sampleOutOfRange v)

/-- `ZONE <- classify(SAMPLE)` (R66); a read of `SAMPLE` before it has a value faults (R17, I16). -/
def classifyPrim (s : State) : Result :=
  match s.sample with
  | none   => .fault .sampleUnwritten
  | some v => .next (s.setZone (zoneCode (classify s.cfg v))).passTime

/-- Perform one primitive action (R20). -/
def perform (a : Action) (s : State) : Result :=
  match a with
  | .drive l v  => .next (drivePrim l v s)
  | .wait d     => .next (waitPrim d s)
  | .sample     => samplePrim s
  | .note k     => .next (notePrim k s)
  | .classify   => classifyPrim s
  | .setEt v    => .next (s.setEt v).passTime
  | .setCur c l => .next (s.setCur c l).passTime
  | .setTick v  => .next (s.setTick v).passTime

/-- Perform a list of primitive actions in order (R4, R8). -/
def runActions : List Action → State → Result
  | [], s      => .next s
  | a :: as, s => andThen (perform a s) (runActions as)

/-! ## Expansions that can stop -/

/-- The expansion of a procedure into primitive actions (R20), or the fault of a procedure that has none. -/
abbrev Expansion := Except Fault (List Action)

/-- Run a procedure's expansion. -/
def runExpansion (x : Expansion) (s : State) : Result :=
  match x with
  | .ok as   => runActions as s
  | .error h => .fault h

/-! ## Control transfer (R20, R69) -/

/-- Enter the handler phase of a zone: `SEQ <- HANDLE(z, 0)`; the dispatch takes its time (R20, R86; DEDUCED, log entry 20). -/
def enterHandler (z : Zone) (s : State) : State := (s.setSeq (.handle z 0)).passTime

/-- The dispatch: read `ZONE` and enter the handler of its zone; a reserved code faults and does not dispatch (R50, R69), and
a read of `ZONE` before it has a value faults (I16). -/
def dispatch (s : State) : Result :=
  match s.zone with
  | none   => .fault .zoneUnwritten
  | some c =>
    match zoneOfCode c with
    | none   => .fault (.reservedZone c)
    | some z => .next (enterHandler z s)

/-- The environment with the platform's reset taken. -/
def Env.resetTaken (env : Env) : Env := { env with reset := none }

/-- Reset of the block (R93): whatever was running is abandoned and every line and register takes its reset value; the
configuration, the environment and the script are not the block's to reset (DESIGN CHOICE, log entry 14). -/
def takeReset (s : State) : State := State.atReset s.cfg s.env.resetTaken s.script

end Sys2Proof.Machine
end

