-- ==== Sys2Proof/Machine/Transport.lean ====
section
/-!
DEFINITION. The LCD 4-bit parallel transport layer (spec/40_transport.md R51 to R55): `sendNibble` and `sendByte` as their expansions
into primitive actions, and the meanings of SENDNIB, SENDBYTE and of the bus-level encodings BUSWORD and BYTEPAIR.
-/

namespace Sys2Proof.Machine

/-- `sendNibble(n, rs)` (R51): the three line drives, then the enable pulse with its setup, pulse and hold times. -/
def sendNibbleActions (cfg : Config) (rs : RegSel) (n : Nibble) : List Action :=
  [ .drive .rs (levelOfBit (rsBit rs)), .drive .rw 0, .drive .db n, .wait cfg.tSu,
    .drive .e 1, .wait cfg.tPw, .drive .e 0, .wait cfg.tH ]

/-- `sendByte(v, rs)` (R53): the settle delay, then the high nibble, then the low nibble, with the same register-select. -/
def sendByteActions (cfg : Config) (rs : RegSel) (v : Byte) : List Action :=
  .wait cfg.tSettle :: (sendNibbleActions cfg rs (highNibble v) ++ sendNibbleActions cfg rs (lowNibble v))

/-- BUSWORD: the enable pulse that carries the word (R42; DEDUCED, log entry 21). -/
def execBusWord (rs : RegSel) (n : Nibble) (s : State) : Result := runActions (sendNibbleActions s.cfg rs n) s

/-- BYTEPAIR: the byte as its two bus words, which the block sends only through `sendByte` (R43, R54). -/
def execBytePair (rs : RegSel) (v : Byte) (s : State) : Result := runActions (sendByteActions s.cfg rs v) s

/-- SENDNIB rs, n (R51). -/
def execSendNib (rs : RegSel) (n : Nibble) (s : State) : Result := runActions (sendNibbleActions s.cfg rs n) s

/-- SENDBYTE rs, v (R53). -/
def execSendByte (rs : RegSel) (v : Byte) (s : State) : Result := runActions (sendByteActions s.cfg rs v) s

end Sys2Proof.Machine
end

