-- ==== Sys2Proof/Machine/Driver.lean ====
section
/-!
DEFINITION. The character display command sequencer (spec/41_display_driver.md R56 to R64): its procedures as their expansions, the
meanings of PUTCMD, PUTCHAR, PUTSTR, GOTO, INIT, WRITEAT and RENDER, and those of the six command bytes and of the data byte
(spec/30_encoding.md R44 to R46). All display traffic goes through `putCommand` and `putChar`, and through them through `sendByte` (R64).
-/

namespace Sys2Proof.Machine

/-- `putCommand(cmd)` (R56). -/
def putCommandActions (cfg : Config) (cmd : Byte) : List Action := sendByteActions cfg .command cmd

/-- `putChar(ch)` (R57). -/
def putCharActions (cfg : Config) (ch : Byte) : List Action := sendByteActions cfg .data ch

/-- `putString(s)`: the characters in order (R58). -/
def putStringActions (cfg : Config) : List Byte → List Action
  | []      => []
  | c :: cs => putCharActions cfg c ++ putStringActions cfg cs

/-- `gotoPosition(c, l)` (R59): out of range, the error is noted and nothing else happens; in range, the set-address command, the
settle delay, and the shadow cursor. -/
def gotoActions (cfg : Config) (c l : Nat) : List Action :=
  if positionInRange cfg c l then
    putCommandActions cfg (setAddressByte cfg c l) ++ [.wait cfg.tSettle, .setCur (BitVec.ofNat 4 c) (BitVec.ofNat 1 l)]
  else [.note .addressOutOfRange]

/-- `initialize()` (R60): the power-up delay, the five commands in the source's order, and the first cell. -/
def initActions (cfg : Config) : List Action :=
  .wait cfg.tPowerup ::
    (putCommandActions cfg cfg.cmdReset ++ putCommandActions cfg cfg.cmdFunctionSet ++ putCommandActions cfg cfg.cmdDisplayCtrl
      ++ putCommandActions cfg cfg.cmdEntryMode ++ putCommandActions cfg cfg.cmdClear ++ gotoActions cfg 0 0)

/-- `writeAt(c, l, s)` (R62): the text is written also where the position is out of range. -/
def writeAtActions (cfg : Config) (c l : Nat) (str : List Byte) : List Action :=
  gotoActions cfg c l ++ putStringActions cfg str

/-- `renderLine(l, s)` (R63): the text from column 0, padded with spaces to the full width. -/
def renderActions (cfg : Config) (l : Nat) (str : List Byte) : List Action := writeAtActions cfg 0 l (padLine cfg str)

/-- PUTCMD v (R56): any 8-bit value is sent as given; `CUR` is not changed. -/
def execPutCmd (v : Byte) (s : State) : Result := runActions (putCommandActions s.cfg v) s

/-- PUTCHAR ch (R57): the code is sent; `CUR` is not advanced. -/
def execPutChar (ch : Byte) (s : State) : Result := runActions (putCharActions s.cfg ch) s

/-- PUTSTR s (R58). -/
def execPutStr (str : List Byte) (s : State) : Result := runActions (putStringActions s.cfg str) s

/-- GOTO c, l (R59). -/
def execGotoPos (c l : Nat) (s : State) : Result := runActions (gotoActions s.cfg c l) s

/-- INIT (R60). -/
def execInit (s : State) : Result := runActions (initActions s.cfg) s

/-- WRITEAT c, l, s (R62). -/
def execWriteAt (c l : Nat) (str : List Byte) (s : State) : Result := runActions (writeAtActions s.cfg c l str) s

/-- RENDER l, s (R63): a text longer than 16 characters is refused (R50). -/
def execRender (l : Nat) (str : List Byte) (s : State) : Result :=
  if str.length ≤ 16 then runActions (renderActions s.cfg l str) s else .refused (.renderTooLong str.length)

/-- CMD_CLEAR, sent with `putCommand` (R44). -/
def execCmdClear (s : State) : Result := runActions (putCommandActions s.cfg 0b00000001) s

/-- CMD_RESET, sent with `putCommand` (R44). -/
def execCmdReset (x : Bit) (s : State) : Result := runActions (putCommandActions s.cfg (cmdResetByte x)) s

/-- CMD_ENTRY_MODE, sent with `putCommand` (R44). -/
def execCmdEntryMode (i sh : Bit) (s : State) : Result := runActions (putCommandActions s.cfg (cmdEntryModeByte i sh)) s

/-- CMD_DISPLAY_CTRL, sent with `putCommand` (R44). -/
def execCmdDisplayCtrl (d c b : Bit) (s : State) : Result := runActions (putCommandActions s.cfg (cmdDisplayCtrlByte d c b)) s

/-- CMD_FUNCTION_SET, sent with `putCommand` (R44). -/
def execCmdFunctionSet (l n f : Bit) (s : State) : Result := runActions (putCommandActions s.cfg (cmdFunctionSetByte l n f)) s

/-- CMD_SET_DDRAM, sent with `putCommand` (R44, R45): as a command byte it does not change `CUR` (R16, R56). -/
def execCmdSetDdram (a : BitVec 7) (s : State) : Result := runActions (putCommandActions s.cfg (cmdSetDdramByte a)) s

/-- DATA, sent with `putChar` (R46). -/
def execData (c : Byte) (s : State) : Result := runActions (putCharActions s.cfg c) s

end Sys2Proof.Machine
end

