-- ==== Sys2Proof/Machine/Quantizer.lean ====
section
/-!
DEFINITION. The analog-to-command quantizer (spec/42_quantizer.md R65 to R68) and the zone codes as the dispatch meets them
(spec/30_encoding.md R47, R50; spec/43_exposure_controller.md R69).
-/

namespace Sys2Proof.Machine

/-- CLASSIFY: `ZONE <- classify(SAMPLE)` (R66). -/
def execClassify (s : State) : Result := perform .classify s

/-- A zone code in `ZONE`, dispatched: the block enters the handler phase of its zone (R47, R69; DESIGN CHOICE, log entry 11). -/
def execZone (z : Zone) (s : State) : Result := dispatch (s.setZone (zoneCode z))

/-- ZONE_IDLE: the controller state Idle. -/
def execZoneIdle (s : State) : Result := execZone .idle s

/-- ZONE_INCREMENT: the controller state Adjust-Up. -/
def execZoneIncrement (s : State) : Result := execZone .increment s

/-- ZONE_DECREMENT: the controller state Adjust-Down. -/
def execZoneDecrement (s : State) : Result := execZone .decrement s

/-- ZONE_RESET: the controller state Resetting. -/
def execZoneReset (s : State) : Result := execZone .reset s

/-- ZONE_EXPOSE: the controller state Exposing. -/
def execZoneExpose (s : State) : Result := execZone .expose s

/-- ZONE_RESERVED: a model that meets a reserved code faults, and does not dispatch (R50). -/
def execZoneReserved (code : ZoneCode) (_s : State) : Result := .fault (.reservedZone code)

end Sys2Proof.Machine
end

