-- ==== Sys2Proof/Machine/Exposure.lean ====
section
/-!
DEFINITION. The exposure relay state machine (spec/43_exposure_controller.md R69 to R78) and the boot sequence
(spec/70_reset_and_hazards.md R95): the handlers as their expansions, and the meanings of POLL, of the five handlers, of BANNER and
of BOOT.
-/

namespace Sys2Proof.Machine

/-- `dec(v)` followed by a fixed text; `dec` has no text above 99 and a model faults there (R61). -/
def secondsText (v : Nat) (tail : List Byte) : Except Fault (List Byte) :=
  match decText v with
  | some ds => .ok (ds ++ tail)
  | none    => .error (.decOutOfDomain v)

/-- `renderLine(l, dec(v) ++ tail)`. -/
def renderSeconds (cfg : Config) (l v : Nat) (tail : List Byte) : Expansion :=
  match secondsText v tail with
  | .ok str  => .ok (renderActions cfg l str)
  | .error h => .error h

/-- Two expansions one after the other. -/
def Expansion.append (x y : Expansion) : Expansion :=
  match x, y with
  | .ok as, .ok bs   => .ok (as ++ bs)
  | .ok _, .error h  => .error h
  | .error h, _      => .error h

/-- `incrementHandler()` (R71), from the value of `ET` at its start. -/
def incrementActions (cfg : Config) (et : Seconds) : Expansion :=
  Expansion.append (.ok (if mayIncrement cfg et then [.setEt (incremented cfg et)] else []))
    (Expansion.append (renderSeconds cfg 0 (incremented cfg et).toNat textSecExposure) (.ok [.wait cfg.tAdjust]))

/-- `decrementHandler()` (R72). -/
def decrementActions (cfg : Config) (et : Seconds) : Expansion :=
  Expansion.append (.ok (if mayDecrement cfg et then [.setEt (decremented cfg et)] else []))
    (Expansion.append (renderSeconds cfg 0 (decremented cfg et).toNat textSecExposure) (.ok [.wait cfg.tAdjust]))

/-- `showBanner()` (R74). -/
def bannerActions (cfg : Config) : List Action :=
  writeAtActions cfg 0 0 textEnlarger ++ writeAtActions cfg 0 1 textTimerV1 ++ [.wait cfg.tBanner]

/-- `resetHandler()` (R73). -/
def resetActions (cfg : Config) : List Action :=
  putCommandActions cfg cfg.cmdClear ++ writeAtActions cfg 0 0 textReset
    ++ [.wait cfg.tResetMsg, .setEt cfg.etReset] ++ bannerActions cfg ++ putCommandActions cfg cfg.cmdClear

/-- One iteration of the countdown (R75): wait, count, show the count. -/
def tickActions (cfg : Config) (k : Nat) : Expansion :=
  Expansion.append (.ok [.wait cfg.tTick, .setTick (BitVec.ofNat 7 k)]) (renderSeconds cfg 1 k textSecLastExp)

/-- The countdown (R75): the iterations 1 to `n`, in order. -/
def countdownActions (cfg : Config) : Nat → Expansion
  | 0     => .ok []
  | n + 1 => Expansion.append (countdownActions cfg n) (tickActions cfg (n + 1))

/-- `exposeHandler()` (R75): the two renders, the relay on, `ET` ticks, the relay off. -/
def exposeActions (cfg : Config) (et : Seconds) : Expansion :=
  Expansion.append (renderSeconds cfg 0 et.toNat textSecExposure)
    (Expansion.append (.ok (renderActions cfg 1 []))
      (Expansion.append (.ok [.drive .relay 1, .setTick 0])
        (Expansion.append (countdownActions cfg et.toNat) (.ok [.drive .relay 0]))))

/-- `idleHandler()` (R76). -/
def idleActions : List Action := [.drive .relay 0]

/-- The handler of a zone (R20, R69). -/
def handlerActions (cfg : Config) (et : Seconds) : Zone → Expansion
  | .idle      => .ok idleActions
  | .increment => incrementActions cfg et
  | .decrement => decrementActions cfg et
  | .reset     => .ok (resetActions cfg)
  | .expose    => exposeActions cfg et

/-- The boot sequence (R95). -/
def bootActions (cfg : Config) : List Action := initActions cfg ++ bannerActions cfg ++ putCommandActions cfg cfg.cmdClear

/-- The sample and classify steps of the control loop, and the note of a sample above the calibrated range (R69). -/
def pollActions (sample : Option Nat) : List Action :=
  [.sample, .classify] ++ (if outOfCalibratedBand sample then [.note .sampleOutOfCalibratedBand] else [])

/-- The note of a sample above the calibrated range, once it is classified (R69, R82). -/
def noteSample (s : State) : Result := runActions ((pollActions s.sample).drop 2) s

/-- The handler phase that `SEQ` is in, to its end, and back to `POLL(0)` (R20). -/
def runHandler (s : State) : Result :=
  match s.seq with
  | .handle z _ =>
    andThen (runExpansion (handlerActions s.cfg s.et z) s.latch) (fun t => .next (t.setSeq (.poll 0)))
  | .boot _ | .poll _ => .next s

/-- POLL: one control-loop iteration (R69): sample, classify, note, dispatch, the zone's handler, and back to `POLL(0)` (log
entry 19). -/
def execPoll (s : State) : Result :=
  andThen (andThen (andThen (runActions [.sample, .classify] s.latch) noteSample) dispatch) runHandler

/-- H_INC (R71). -/
def execHInc (s : State) : Result := runExpansion (incrementActions s.cfg s.et) s

/-- H_DEC (R72). -/
def execHDec (s : State) : Result := runExpansion (decrementActions s.cfg s.et) s

/-- H_RESET (R73). -/
def execHReset (s : State) : Result := runActions (resetActions s.cfg) s

/-- H_EXPOSE (R75). -/
def execHExpose (s : State) : Result := runExpansion (exposeActions s.cfg s.et) s

/-- H_IDLE (R76). -/
def execHIdle (s : State) : Result := runActions idleActions s

/-- BANNER (R74). -/
def execBanner (s : State) : Result := runActions (bannerActions s.cfg) s

/-- BOOT (R95): the boot sequence, then the control loop. -/
def execBoot (s : State) : Result :=
  andThen (runActions (bootActions s.cfg) s.latch) (fun t => .next (t.setSeq (.poll 0)))

end Sys2Proof.Machine
end

