-- ==== Sys2Proof/Machine/Primitives.lean ====
section
/-!
DEFINITION. The meanings of the four primitives as operations of the notation: DRIVE, WAIT, SAMPLE, NOTE (spec/00_scope.md R8,
spec/60_exceptions.md R80, R85, R88, spec/30_encoding.md R50).
-/

namespace Sys2Proof.Machine

/-- DRIVE L, v (R8, R22): refused for RW = 1, a read transfer, and for a level the line does not admit (R50). -/
def execDrive (l : Line) (v : Nibble) (s : State) : Result :=
  if levelAdmitted l v then perform (.drive l v) s
  else if l = .rw ∧ v = 1 then .refused .readTransfer
  else .refused (.badLevel l v)

/-- WAIT d (R85). -/
def execWait (d : Nat) (s : State) : Result := perform (.wait d) s

/-- SAMPLE (R88). -/
def execSample (s : State) : Result := perform .sample s

/-- NOTE k (R80). -/
def execNote (k : ErrKind) (s : State) : Result := perform (.note k) s

end Sys2Proof.Machine
end

