-- ==== Sys2Proof/Machine/Dispatch.lean ====
section
/-!
DEFINITION. One arm per instruction, each one call of its meaning.
-/

namespace Sys2Proof.Machine

/-- What an instruction does. -/
def exec (i : Instr) (s : State) : Host.Outcome State Fault Refusal :=
  match i with
  | .busWord rs n => Sys2Proof.Machine.execBusWord rs n s
  | .bytePair rs v => Sys2Proof.Machine.execBytePair rs v s
  | .cmdClear => Sys2Proof.Machine.execCmdClear s
  | .cmdReset x => Sys2Proof.Machine.execCmdReset x s
  | .cmdEntryMode inc sh => Sys2Proof.Machine.execCmdEntryMode inc sh s
  | .cmdDisplayCtrl d c b => Sys2Proof.Machine.execCmdDisplayCtrl d c b s
  | .cmdFunctionSet l n f => Sys2Proof.Machine.execCmdFunctionSet l n f s
  | .cmdSetDdram a => Sys2Proof.Machine.execCmdSetDdram a s
  | .data c => Sys2Proof.Machine.execData c s
  | .zoneIdle => Sys2Proof.Machine.execZoneIdle s
  | .zoneIncrement => Sys2Proof.Machine.execZoneIncrement s
  | .zoneDecrement => Sys2Proof.Machine.execZoneDecrement s
  | .zoneReset => Sys2Proof.Machine.execZoneReset s
  | .zoneExpose => Sys2Proof.Machine.execZoneExpose s
  | .zoneReserved code => Sys2Proof.Machine.execZoneReserved code s
  | .drive l v => Sys2Proof.Machine.execDrive l v s
  | .wait d => Sys2Proof.Machine.execWait d s
  | .sample => Sys2Proof.Machine.execSample s
  | .note k => Sys2Proof.Machine.execNote k s
  | .sendNib rs n => Sys2Proof.Machine.execSendNib rs n s
  | .sendByte rs v => Sys2Proof.Machine.execSendByte rs v s
  | .putCmd v => Sys2Proof.Machine.execPutCmd v s
  | .putChar ch => Sys2Proof.Machine.execPutChar ch s
  | .putStr str => Sys2Proof.Machine.execPutStr str s
  | .gotoPos c l => Sys2Proof.Machine.execGotoPos c l s
  | .init => Sys2Proof.Machine.execInit s
  | .writeAt c l str => Sys2Proof.Machine.execWriteAt c l str s
  | .render l str => Sys2Proof.Machine.execRender l str s
  | .classify => Sys2Proof.Machine.execClassify s
  | .poll => Sys2Proof.Machine.execPoll s
  | .hInc => Sys2Proof.Machine.execHInc s
  | .hDec => Sys2Proof.Machine.execHDec s
  | .hReset => Sys2Proof.Machine.execHReset s
  | .hExpose => Sys2Proof.Machine.execHExpose s
  | .hIdle => Sys2Proof.Machine.execHIdle s
  | .banner => Sys2Proof.Machine.execBanner s
  | .boot => Sys2Proof.Machine.execBoot s

end Sys2Proof.Machine
end

