-- ==== Sys2Proof/Machine/Sequencer.lean ====
section
/-!
DEFINITION. The sequencer of the block's own program (spec/10_state.md R20): each phase's list of primitive actions, the action at the
position's index, and what follows the last one.
-/

namespace Sys2Proof.Machine

/-- The index of a position within its phase. -/
def Seq.index : Seq → Nat
  | .boot k     => k
  | .poll k     => k
  | .handle _ k => k

/-- A position's phase at another index. -/
def Seq.atIndex : Seq → Nat → Seq
  | .boot _, k     => .boot k
  | .poll _, k     => .poll k
  | .handle z _, k => .handle z k

/-- The list of primitive actions of a phase (R20): a function of the register values at the start of the phase; for POLL the note
depends on the sample the phase itself takes (log entry 12). -/
def phaseActions (cfg : Config) (q : Seq) (et : Seconds) (sample : Option Nat) : Expansion :=
  match q with
  | .boot _     => .ok (bootActions cfg)
  | .poll _     => .ok (pollActions sample)
  | .handle z _ => handlerActions cfg et z

/-- At the start of a phase, keep the register value its list of actions is a function of. -/
def State.atPhaseStart (s : State) : State := if s.seq.index = 0 then s.latch else s

/-- The list of primitive actions of the phase that is under way: `ET` as the phase found it. -/
def State.runningList (s : State) : Expansion := phaseActions s.cfg s.seq s.phaseEt s.sample

/-- The list of primitive actions of the phase `SEQ` is in, at its start or under way. -/
def State.phaseList (s : State) : Expansion := s.atPhaseStart.runningList

/-- Past the end of a phase's list (R20): BOOT and every handler go to `POLL(0)`; POLL dispatches. -/
def leavePhase (s : State) : Result :=
  match s.seq with
  | .boot _ | .handle _ _ => .next (s.setSeq (.poll 0))
  | .poll _               => dispatch s

/-- After the action at index k: the position k + 1, or the end of the phase, in the same step (DEDUCED, log entry 20). -/
def advance (k : Nat) (s : State) : Result :=
  match s.runningList with
  | .ok as   => if k + 1 < as.length then .next (s.setSeq (s.seq.atIndex (k + 1))) else leavePhase s
  | .error h => .fault h

/-- One step of the block's own program: the action at the position's index, and the next position (R20). -/
def programStep (s : State) : Result :=
  match s.phaseList with
  | .error h => .fault h
  | .ok as =>
    match as[s.seq.index]? with
    | some a => andThen (perform a s.atPhaseStart) (advance s.seq.index)
    | none   => leavePhase s

end Sys2Proof.Machine
end

