-- ==== Sys2Proof/Machine/Abandon.lean ====
section
/-!
DEFINITION. An operation abandoned by a reset (spec/60_exceptions.md R92, spec/70_reset_and_hazards.md R93): what the block has done
when the platform's reset falls after some of the primitive actions a step performs, or within the wait that follows them.
-/

namespace Sys2Proof.Machine

/-- An action under way: of a wait, its event and the time that has passed of it; every other action is indivisible (R31). -/
def beginAction (into : Nat) (a : Option Action) (s : State) : State :=
  match a with
  | some (.wait d) => (s.record (.wait d s.time)).elapse (min into (d + s.waitExcess))
  | some (.drive _ _) | some .sample | some (.note _) | some .classify | some (.setEt _) | some (.setCur _ _) | some (.setTick _)
  | none => s

/-- A list of actions up to a point of it. -/
def partOfActions (p : ResetPoint) (as : List Action) (s : State) : Result :=
  andThen (runActions (as.take p.after) s) (fun t => .next (beginAction p.into as[p.after]? t))

/-- A procedure's expansion up to a point of it. -/
def partOfExpansion (p : ResetPoint) (x : Expansion) (s : State) : Result :=
  match x with
  | .ok as   => partOfActions p as s
  | .error h => if p.after = 0 then .next s else .fault h

/-- An operation of one action that is no wait: it has not begun, or it has ended (R31). -/
def allOrNothing (p : ResetPoint) (i : Instr) (s : State) : Result := if p.after = 0 then .next s else exec i s

/-- The action the block's own program performs next. -/
def State.nextAction (s : State) : Option Action :=
  match s.phaseList with
  | .ok as   => as[s.seq.index]?
  | .error _ => none

/-- At most so many steps of the block's own program, to the next `POLL(0)` at the furthest. -/
def programPart : Nat → State → Result
  | 0, s     => .next s
  | k + 1, s => andThen (programStep s) (fun t => if t.seq = .poll 0 then .next t else programPart k t)

/-- The block's own program from a position, up to a point. -/
def partOfProgram (p : ResetPoint) (s : State) : Result :=
  andThen (programPart p.after s) (fun t => .next (beginAction p.into t.nextAction t))

/-- An operation up to a point of it. POLL and BOOT are phases of the block's own program (R48, R69, R95). -/
def partOfOperation (p : ResetPoint) (i : Instr) (s : State) : Result :=
  match i with
  | .busWord rs n          => partOfActions p (sendNibbleActions s.cfg rs n) s
  | .bytePair rs v         => partOfActions p (sendByteActions s.cfg rs v) s
  | .cmdClear              => partOfActions p (putCommandActions s.cfg 0b00000001) s
  | .cmdReset x            => partOfActions p (putCommandActions s.cfg (cmdResetByte x)) s
  | .cmdEntryMode i sh     => partOfActions p (putCommandActions s.cfg (cmdEntryModeByte i sh)) s
  | .cmdDisplayCtrl d c b  => partOfActions p (putCommandActions s.cfg (cmdDisplayCtrlByte d c b)) s
  | .cmdFunctionSet l n f  => partOfActions p (putCommandActions s.cfg (cmdFunctionSetByte l n f)) s
  | .cmdSetDdram a         => partOfActions p (putCommandActions s.cfg (cmdSetDdramByte a)) s
  | .data c                => partOfActions p (putCharActions s.cfg c) s
  | .zoneIdle              => allOrNothing p .zoneIdle s
  | .zoneIncrement         => allOrNothing p .zoneIncrement s
  | .zoneDecrement         => allOrNothing p .zoneDecrement s
  | .zoneReset             => allOrNothing p .zoneReset s
  | .zoneExpose            => allOrNothing p .zoneExpose s
  | .zoneReserved c        => allOrNothing p (.zoneReserved c) s
  | .drive l v             => allOrNothing p (.drive l v) s
  | .wait d                => partOfActions p [.wait d] s
  | .sample                => allOrNothing p .sample s
  | .note k                => allOrNothing p (.note k) s
  | .sendNib rs n          => partOfActions p (sendNibbleActions s.cfg rs n) s
  | .sendByte rs v         => partOfActions p (sendByteActions s.cfg rs v) s
  | .putCmd v              => partOfActions p (putCommandActions s.cfg v) s
  | .putChar ch            => partOfActions p (putCharActions s.cfg ch) s
  | .putStr str            => partOfActions p (putStringActions s.cfg str) s
  | .gotoPos c l           => partOfActions p (gotoActions s.cfg c l) s
  | .init                  => partOfActions p (initActions s.cfg) s
  | .writeAt c l str       => partOfActions p (writeAtActions s.cfg c l str) s
  | .render l str          =>
    if str.length ≤ 16 then partOfActions p (renderActions s.cfg l str) s else allOrNothing p (.render l str) s
  | .classify              => allOrNothing p .classify s
  | .poll                  => partOfProgram p (s.setSeq (.poll 0))
  | .hInc                  => partOfExpansion p (incrementActions s.cfg s.et) s
  | .hDec                  => partOfExpansion p (decrementActions s.cfg s.et) s
  | .hReset                => partOfActions p (resetActions s.cfg) s
  | .hExpose               => partOfExpansion p (exposeActions s.cfg s.et) s
  | .hIdle                 => partOfActions p idleActions s
  | .banner                => partOfActions p (bannerActions s.cfg) s
  | .boot                  => partOfProgram p (s.setSeq (.boot 0))

/-- A step up to the point at which a reset falls. At its very start nothing has begun. An operation of the script that has begun
does not come again; a line that is refused has not begun (R50). Without a script the step is one action. -/
def abandoned (p : ResetPoint) (s : State) : Result :=
  if p.after = 0 ∧ p.into = 0 then .next s
  else
    match s.script with
    | op :: rest =>
      match decode op with
      | .ok i    => partOfOperation p i (s.setScript rest)
      | .error _ => .next s
    | [] => if p.after = 0 then .next (beginAction p.into s.nextAction s) else programStep s

end Sys2Proof.Machine
end

