-- ==== Sys2Proof/Machine/Script.lean ====
section
/-!
DEFINITION. Reading a script (spec/30_encoding.md R48, R50): a text of lines, one operation a line; `;` starts a comment; a line
`SAMPLES s1, s2, ...` gives the values the environment returns to successive `sample()` reads. A script the notation refuses is
refused before it runs, by name and line.
-/

namespace Sys2Proof.Machine

/-- The lines of a text; the line feed ends a line. -/
def scriptLines : List Byte → List (List Byte)
  | [] => [[]]
  | c :: cs =>
    if c = 0x0A then [] :: scriptLines cs
    else
      match scriptLines cs with
      | []      => [[c]]
      | l :: ls => (c :: l) :: ls

/-- A line with nothing to run: blank, or a comment only. -/
def emptyLine (l : List Byte) : Bool :=
  match skipBlanks l with
  | []     => true
  | c :: _ => c == 0x3B

/-- The first word of a line. -/
def firstWord (l : List Byte) : List Byte := (skipBlanks l).takeWhile isWordChar

/-- The spelling of the directive that gives the samples (R48). -/
def samplesSpelling : List Byte := codes ['S', 'A', 'M', 'P', 'L', 'E', 'S']

/-- The numbers of a list of operands. -/
def sampleValues : List Operand → Except ScriptError (List Nat)
  | [] => .ok []
  | op :: ops =>
    match asNum op, sampleValues ops with
    | .ok n, .ok ns     => .ok (n :: ns)
    | .error err, _     => .error err
    | .ok _, .error err => .error err

/-- An operation of a script, with R50's mark: it stands outside the block's program. -/
structure ScriptOp where
  op      : Encoded
  outside : Bool
deriving DecidableEq, Repr

/-- One line of a script: nothing, samples, or an operation with its mark. A SAMPLES line may give no value at all (DESIGN CHOICE, log
entry 30). -/
def readLine (l : List Byte) : Except ScriptError (List Nat × List ScriptOp) :=
  if emptyLine l then .ok ([], [])
  else if firstWord l = samplesSpelling then
    match parseOperands ((skipBlanks l).dropWhile isWordChar) with
    | .error err => .error err
    | .ok ops =>
      match sampleValues ops with
      | .error err => .error err
      | .ok ns     => .ok (ns, [])
  else
    match decodeLine l with
    | .error err => .error err
    | .ok i      => .ok ([], [⟨.operation l, i.outsideProgram⟩])

/-- The lines of a script from line `n` on; the first line the notation refuses is refused by name and line (R50). The samples of
every SAMPLES line are gathered in order, wherever the line stands among the operations (DESIGN CHOICE, log entry 29). -/
def readLines : Nat → List (List Byte) → Except (Nat × ScriptError) (List Nat × List ScriptOp)
  | _, [] => .ok ([], [])
  | n, l :: ls =>
    match readLine l with
    | .error err => .error (n, err)
    | .ok (ns, ops) =>
      match readLines (n + 1) ls with
      | .error x        => .error x
      | .ok (ns', ops') => .ok (ns ++ ns', ops ++ ops')

/-- A script as text: its samples and its operations, or the line that is refused and why. -/
def readScript (text : List Byte) : Except (Nat × ScriptError) (List Nat × List ScriptOp) := readLines 1 (scriptLines text)

/-- A state with a script's samples and operations added, to be run from it (R48). -/
def State.withScript (s : State) (samples : List Nat) (ops : List ScriptOp) : State :=
  { s with script := s.script ++ ops.map ScriptOp.op, env := { s.env with samples := s.env.samples ++ samples } }

end Sys2Proof.Machine
end

