-- ==== Sys2Proof/Machine/Step.lean ====
section
/-!
DEFINITION. One step: a reset the platform asks for, at the point of the step at which it falls; else the next operation of the
script, where there is one; else one primitive action of the block's own program (spec/10_state.md R20, spec/30_encoding.md R48, spec/70_reset_and_hazards.md R93).
-/

namespace Sys2Proof.Machine

/-- Decode and run the script's next operation, or refuse it by name (R50; DESIGN CHOICE, log entry 3). -/
def scriptStep (op : Encoded) (rest : List Encoded) (s : State) : Host.Outcome State Fault Refusal :=
  match decode op with
  | .ok i      => exec i (s.setScript rest)
  | .error err => .refused (.badScript err)

/-- THE STEP. A configuration the spec does not admit is refused before anything runs (R6). A reset abandons what the step has begun
and resets the block (R93). -/
def step (s : State) : Host.Outcome State Fault Refusal :=
  if configOk s.cfg then
    match s.env.reset with
    | some p => andThen (abandoned p s) (fun u => .next (takeReset u))
    | none   =>
      match s.script with
      | op :: rest => scriptStep op rest s
      | []         => programStep s
  else .refused .badConfiguration

/-- The state whose next step runs the instruction of a word numbered as spec/opcode_table.json numbers its bits: the word's
encoded form stands first in the script, and no reset is asked for. -/
def State.withFetchWord (s : State) (nbits w : Nat) : State :=
  { s with script := tableItem nbits w :: s.script, env := s.env.resetTaken }

end Sys2Proof.Machine
end

