-- ==== Sys2Proof/Machine/Display.lean ====
section
/-!
DEFINITION. The reference model of the display receiver (spec/20_memory.md R37 to R41; informative, from general knowledge). The block
does not contain it: it is a function of what the block drives, composed with the block by reading the trace. What its rules leave
open is an argument (PRESUMED, log entries 15 and 16) or the model's choice (log entries 28 and 31).
-/

namespace Sys2Proof.Machine

/-- The interface width the display is in (R37). -/
inductive DisplayMode where
  | eight
  | four
deriving DecidableEq, Repr

/-- The display's state (R37). `cells` is `DM.DDRAM`, indexed by address. The model's own: `shifted`, that a display shift has moved
the display, which R39 and R40 speak of and R37 gives no field; `lowInputs`, the count of the draws made for the unconnected data
inputs. -/
structure Display where
  mode      : DisplayMode
  half      : Option Nibble
  ac        : BitVec 7
  cells     : List Byte
  id        : Bit
  sh        : Bit
  on        : Bit
  cursor    : Bit
  blink     : Bit
  twoLines  : Bit
  font      : Bit
  shifted   : Bool
  lowInputs : Nat
deriving DecidableEq, Repr

/-- What R37 to R40 leave open, as functions a claim is made for every choice of. -/
structure DisplayDraws where
  /-- The unconnected inputs at each nibble taken in 8-bit mode (R38). -/
  lowInput : Nat → Nibble
  /-- The address after the end of a range or of the counter, where no rule says what follows (log entry 16). -/
  address  : Display → BitVec 7
  /-- What a cursor or display shift moves (R39): the cursor, to an address, or the display (`none`). -/
  shift    : Byte → Display → Option (BitVec 7)
  /-- The effect of a character-generator address, of which R39 gives the name only. -/
  command  : Byte → Display → Display

/-- The bus lines as the display sees them. -/
structure BusLines where
  db : Nibble
  rs : Bit
  rw : Bit
  e  : Bit
deriving DecidableEq, Repr

/-- The lines at reset (R93). -/
def BusLines.atReset : BusLines := { db := 0, rs := 0, rw := 0, e := 0 }

/-- A display at power-on: 8-bit mode, no half byte latched, 128 cells; the other fields are whatever they are (R37). -/
def Display.poweredOn (d : Display) : Bool := decide (d.mode = .eight) && decide (d.half = none) && decide (d.cells.length = 128)

/-- `next(a)`: one more when `DM.ID` is 1, one less when it is 0 (R37); for two lines that increment, 0x27 is followed by 0x40 and
0x67 by 0x00 (R39). Where the range ends in the other settings, or one more does not fit the 7-bit counter, no rule says what
follows: the address is a draw there (log entry 16). -/
def nextAddress (w : DisplayDraws) (d : Display) : BitVec 7 :=
  if d.id = 1 then
    if d.twoLines = 1 ∧ d.ac = 0x27 then 0x40
    else if d.twoLines = 1 ∧ d.ac = 0x67 then 0x00
    else if d.ac = 0x7F then w.address d
    else d.ac + 1
  else if d.ac = 0x00 ∨ (d.twoLines = 1 ∧ d.ac = 0x40) then w.address d
  else d.ac - 1

/-- A data byte: it is written at the address counter, which moves on (R39); with `DM.SH` the write shifts the display (R37). -/
def takeData (w : DisplayDraws) (b : Byte) (d : Display) : Display :=
  { d with cells := d.cells.set d.ac.toNat b, ac := nextAddress w d, shifted := d.shifted || decide (d.sh = 1) }

/-- A cursor or display shift: it moves the cursor or the display and changes nothing else (R39). -/
def takeShift (w : DisplayDraws) (b : Byte) (d : Display) : Display :=
  match w.shift b d with
  | some a => { d with ac := a }
  | none   => { d with shifted := true }

/-- A command byte (R39): the first form that fits, from the highest bit down. -/
def takeCommand (w : DisplayDraws) (b : Byte) (d : Display) : Display :=
  if b.getLsbD 7 then { d with ac := b.extractLsb' 0 7 }
  else if b.getLsbD 6 then w.command b d
  else if b.getLsbD 5 then
    { d with mode := if b.getLsbD 4 then .eight else .four, twoLines := bitOf 3 b, font := bitOf 2 b }
  else if b.getLsbD 4 then takeShift w b d
  else if b.getLsbD 3 then { d with on := bitOf 2 b, cursor := bitOf 1 b, blink := bitOf 0 b }
  else if b.getLsbD 2 then { d with id := bitOf 1 b, sh := bitOf 0 b }
  else if b.getLsbD 1 then { d with ac := 0 }
  else if b.getLsbD 0 then { d with cells := List.replicate d.cells.length 0x20, ac := 0, id := 1 }
  else d

/-- A byte with its register-select (R39). -/
def takeByte (w : DisplayDraws) (rs : Bit) (b : Byte) (d : Display) : Display :=
  if rs = 1 then takeData w b d else takeCommand w b d

/-- A nibble with its register-select, at a falling edge of `E` with `RW = 0` (R38). -/
def takeNibble (w : DisplayDraws) (rs : Bit) (n : Nibble) (d : Display) : Display :=
  match d.mode with
  | .eight => takeByte w rs (n ++ w.lowInput d.lowInputs) { d with lowInputs := d.lowInputs + 1 }
  | .four =>
    match d.half with
    | none   => { d with half := some n }
    | some h => takeByte w rs (h ++ n) { d with half := none }

/-- One event on the lines: the display takes a nibble at a falling edge of `E` while `RW` is 0; every other event only changes
levels (R32, R38). A nibble that comes before the display's power-up need of R37 is met is taken as any other (DESIGN CHOICE, log
entry 28), and so is one that comes while the display still executes the byte before (DESIGN CHOICE, log entry 31). -/
def busEvent (w : DisplayDraws) (ev : Event) (x : BusLines × Display) : BusLines × Display :=
  match ev with
  | .set .db v _ => ({ x.1 with db := v }, x.2)
  | .set .rs v _ => ({ x.1 with rs := bitLevel v }, x.2)
  | .set .rw v _ => ({ x.1 with rw := bitLevel v }, x.2)
  | .set .e v _  =>
    ({ x.1 with e := bitLevel v },
      if x.1.e = 1 ∧ bitLevel v = 0 ∧ x.1.rw = 0 then takeNibble w x.1.rs x.1.db x.2 else x.2)
  | .set .relay _ _ | .wait _ _ | .sample _ _ | .err _ _ => x

/-- The lines and the display after a list of events. -/
def observe (w : DisplayDraws) (evs : List Event) (x : BusLines × Display) : BusLines × Display :=
  evs.foldl (fun y ev => busEvent w ev y) x

/-- The display of a system: what a display in state `d` at the block's reset has become by the block's trace. -/
def State.display (w : DisplayDraws) (d : Display) (s : State) : Display := (observe w s.trace (BusLines.atReset, d)).2

/-- The 16 characters a line shows, without a display shift (R40). -/
def Display.line (d : Display) (l : Nat) : List Byte := (d.cells.drop (if l = 0 then 0x00 else 0x40)).take 16

/-- The line shows a text: its codes, followed by spaces (R40). -/
def Display.shows (d : Display) (l : Nat) (str : List Byte) : Prop :=
  d.line l = str ++ List.replicate (16 - str.length) 0x20

/-- A display in step with the block: 4-bit mode, no half byte latched, two lines, incrementing, no shift, 128 cells. -/
def Display.inStep (d : Display) : Bool :=
  decide (d.mode = .four) && decide (d.half = none) && decide (d.twoLines = 1) && decide (d.id = 1) && decide (d.sh = 0)
    && decide (d.cells.length = 128)

/-- The longest execution time of a byte in microseconds (R39): clear and return home, and everything else. It has
no effect on what the display takes (log entry 31). -/
def executionTime (rs : Bit) (b : Byte) : Nat := if rs = 0 ∧ b.toNat < 4 ∧ 0 < b.toNat then 1520 else 37

end Sys2Proof.Machine
end

