-- ==== Sys2Proof/Safety.lean ====
section
/-!
DEFINITION. What a safe run is: the invariants of the block's own program (spec/10_state.md R26) in terms of the sequencer's position,
and the discipline of the display bus as a monitor over the trace (spec/40_transport.md R52, R54, spec/70_reset_and_hazards.md R97 to R99).
-/

namespace Sys2Proof.Machine

/-- The level a list of actions leaves a line at, from a given level. -/
def levelAfter (l : Line) (v : Nibble) (as : List Action) : Nibble :=
  as.foldl (fun x a => match a with
    | .drive l' y => if l' = l then y else x
    | _           => x) v

/-- Configurations under which the block's own program has no case that faults: the reset value of `ET` lies in its domain (R15), and
`dec` covers the domain (R61). -/
def runnable (cfg : Config) : Bool :=
  configOk cfg && decide (cfg.etMin ≤ cfg.etReset) && decide (cfg.etReset ≤ cfg.etMax) && decide (cfg.etMax.toNat ≤ 99)

/-- `ET` within its domain (R15). -/
def etInDomain (cfg : Config) (et : Seconds) : Prop := cfg.etMin ≤ et ∧ et ≤ cfg.etMax

/-- The samples to come are samples of the configured width (R88, R92). -/
def samplesInRange (s : State) : Prop := ∀ v ∈ s.env.samples, v ≤ sampleMax s.cfg

/-- The registers POLL reads have been written by the time it reads them (R17, R18). -/
def pollRegistersWritten (s : State) : Prop :=
  match s.seq with
  | .poll k => (1 ≤ k → s.sample.isSome = true) ∧ (2 ≤ k → ∃ z, s.zone = some (zoneCode z))
  | .boot _ | .handle _ _ => True

/-- The block runs its own program: no script, a configuration it can run under, the registers in their domains, and the position
within its phase, with the relay and the enable line as the phase's actions so far leave them (R26). -/
structure RunsOwnProgram (s : State) : Prop where
  noScript   : s.script = []
  config     : runnable s.cfg = true
  samples    : samplesInRange s
  et         : etInDomain s.cfg s.et
  phaseEt    : etInDomain s.cfg s.atPhaseStart.phaseEt
  write      : s.rw = 0
  registers  : pollRegistersWritten s
  position   : ∃ as, s.phaseList = .ok as ∧ s.seq.index < as.length ∧
    levelOfBit s.relay = levelAfter .relay 0 (as.take s.seq.index) ∧ levelOfBit s.e = levelAfter .e 0 (as.take s.seq.index)

/-- Every event of the trace is stamped no later than now, and the stamps never fall (R21, R35). -/
def Event.time : Event → Nat
  | .set _ _ t   => t
  | .wait _ t    => t
  | .sample _ t  => t
  | .err _ t     => t

/-- The trace is in the order of time, and none of it lies in the future (R21, R35). -/
def traceOrdered (s : State) : Prop := (s.trace.map Event.time).Pairwise (· ≤ ·) ∧ ∀ ev ∈ s.trace, ev.time ≤ s.time

/-! ## What statements about single operations speak of -/

/-- A trace event without its time. -/
inductive Signal where
  | set (l : Line) (v : Nibble)
  | wait (d : Nat)
  | sample (v : Nat)
  | err (k : ErrKind)
deriving DecidableEq, Repr

/-- The event's signal. -/
def Event.signal : Event → Signal
  | .set l v _  => .set l v
  | .wait d _   => .wait d
  | .sample v _ => .sample v
  | .err k _    => .err k

/-- The signal a primitive action appends; a register write appends none (R22). The sample's value is the environment's. -/
def Action.signals : Action → List Signal
  | .drive l v => [.set l v]
  | .wait d    => [.wait d]
  | .note k    => [.err k]
  | .sample | .classify | .setEt _ | .setCur _ _ | .setTick _ => []

/-- Instructions one after the other, up to the first stop. -/
def execAll : List Instr → State → Result
  | [], s      => .next s
  | i :: is, s => andThen (exec i s) (execAll is)

/-- The trace has grown by events with these signals, no earlier than the time before and no later than the time after. -/
def appends (s t : State) (signals : List Signal) : Prop :=
  ∃ evs, t.trace = s.trace ++ evs ∧ evs.map Event.signal = signals ∧ ∀ ev ∈ evs, s.time ≤ ev.time ∧ ev.time ≤ t.time

/-- What no operation but a script's own transfer of control changes: the configuration, the script, and the environment's choices
that are not draws. -/
structure SameSurroundings (s t : State) : Prop where
  cfg    : t.cfg = s.cfg
  script : t.script = s.script
  timing : t.env.timing = s.env.timing
  reset  : t.env.reset = s.env.reset

/-- The position of the block's own program. -/
def samePosition (s t : State) : Prop := t.seq = s.seq ∧ t.phaseEt = s.phaseEt

/-- The display bus: DB, RS, RW, E. -/
def sameBus (s t : State) : Prop := t.db = s.db ∧ t.rs = s.rs ∧ t.rw = s.rw ∧ t.e = s.e

/-- The shadow cursor. -/
def sameCursor (s t : State) : Prop := t.curCol = s.curCol ∧ t.curLine = s.curLine

/-- The registers of the quantizer. -/
def sameQuantizer (s t : State) : Prop := t.sample = s.sample ∧ t.zone = s.zone ∧ t.env.samples = s.env.samples

/-- What no transfer to the display changes: everything but the bus, the cursor, the time and the trace. -/
structure SameBeyondDisplay (s t : State) : Prop where
  surroundings : SameSurroundings s t
  position     : samePosition s t
  quantizer    : sameQuantizer s t
  relay        : t.relay = s.relay
  et           : t.et = s.et
  tick         : t.tick = s.tick

/-- The bus as a byte leaves it: the register-select, write, the byte's low nibble, and the enable line at rest (R53). -/
def busAfterByte (rs : RegSel) (v : Byte) (t : State) : Prop := t.rs = rsBit rs ∧ t.rw = 0 ∧ t.db = lowNibble v ∧ t.e = 0

/-- The signals of one nibble, as R51 lists them. -/
def nibbleSignals (cfg : Config) (rs : RegSel) (n : Nibble) : List Signal :=
  [.set .rs (levelOfBit (rsBit rs)), .set .rw 0, .set .db n, .wait cfg.tSu, .set .e 1, .wait cfg.tPw, .set .e 0, .wait cfg.tH]

/-- The signals of one byte: the settle delay, the high nibble, the low nibble (R53). -/
def byteSignals (cfg : Config) (rs : RegSel) (v : Byte) : List Signal :=
  .wait cfg.tSettle :: (nibbleSignals cfg rs (highNibble v) ++ nibbleSignals cfg rs (lowNibble v))

/-- The signals of command bytes, in order. -/
def commandSignals (cfg : Config) (bytes : List Byte) : List Signal := bytes.flatMap (byteSignals cfg .command)

/-- The signals of a text, character by character (R58). -/
def textSignals (cfg : Config) (str : List Byte) : List Signal := str.flatMap (byteSignals cfg .data)

/-- The signals of an in-range cursor move (R59). -/
def gotoSignals (cfg : Config) (c l : Nat) : List Signal := byteSignals cfg .command (setAddressByte cfg c l) ++ [.wait cfg.tSettle]

/-- The signals of a text at an in-range position (R62). -/
def writeAtSignals (cfg : Config) (c l : Nat) (str : List Byte) : List Signal := gotoSignals cfg c l ++ textSignals cfg str

/-- The signals of a line shown whole, padded with spaces (R63). -/
def lineSignals (cfg : Config) (l : Nat) (str : List Byte) : List Signal := writeAtSignals cfg 0 l (padLine cfg str)

/-- The signals of the banner (R74). -/
def bannerSignals (cfg : Config) : List Signal :=
  writeAtSignals cfg 0 0 textEnlarger ++ writeAtSignals cfg 0 1 textTimerV1 ++ [.wait cfg.tBanner]

/-- The signals of the initialisation (R60). -/
def initSignals (cfg : Config) : List Signal :=
  .wait cfg.tPowerup ::
    (commandSignals cfg [cfg.cmdReset, cfg.cmdFunctionSet, cfg.cmdDisplayCtrl, cfg.cmdEntryMode, cfg.cmdClear]
      ++ gotoSignals cfg 0 0)

/-- The decimal text of a number up to 99, followed by a fixed text. -/
def seconds (v : Nat) (tail : List Byte) : List Byte := (decText v).getD [] ++ tail

/-- The signals of the countdown's iteration k (R75). -/
def tickSignals (cfg : Config) (k : Nat) : List Signal := .wait cfg.tTick :: lineSignals cfg 1 (seconds k textSecLastExp)

/-- The signals of an exposure of `n` seconds (R75). -/
def exposeSignals (cfg : Config) (n : Nat) : List Signal :=
  lineSignals cfg 0 (seconds n textSecExposure) ++ lineSignals cfg 1 [] ++ [.set .relay 1]
    ++ (List.range n).flatMap (fun k => tickSignals cfg (k + 1)) ++ [.set .relay 0]

/-- The waits of one nibble (R51). -/
def nibbleTime (cfg : Config) : Nat := cfg.tSu + cfg.tPw + cfg.tH

/-- The waits of one byte: the settle delay and two nibbles (R54). -/
def byteTime (cfg : Config) : Nat := cfg.tSettle + 2 * nibbleTime cfg

/-- The waits of an in-range cursor move (R59). -/
def gotoTime (cfg : Config) : Nat := byteTime cfg + cfg.tSettle

/-- The waits of a text of `n` characters at an in-range position (R62). -/
def writeAtTime (cfg : Config) (n : Nat) : Nat := gotoTime cfg + n * byteTime cfg

/-- The waits of a line shown whole (R63). -/
def lineTime (cfg : Config) : Nat := writeAtTime cfg cfg.cols

/-- The waits of the banner (R74). -/
def bannerTime (cfg : Config) : Nat := 2 * writeAtTime cfg 8 + cfg.tBanner

/-- The waits of the initialisation (R60). -/
def initTime (cfg : Config) : Nat := cfg.tPowerup + 6 * byteTime cfg + cfg.tSettle

/-- The environment of the worked examples: every wait lasts its nominal length, everything else takes no time (R85, R86). -/
def deterministic (s : State) : Prop := s.env.timing = .fixed 0

/-- An operation has lasted at least the waits it consists of, and exactly them in deterministic timing (R85, R103). -/
def takes (s t : State) (x : Nat) : Prop := s.time + x ≤ t.time ∧ (deterministic s → t.time = s.time + x)

/-- The display's geometry of R5: 16 columns, 2 lines. -/
def standardGeometry (cfg : Config) : Prop := cfg.cols = 16 ∧ cfg.lines = 2

/-- The instruction that runs a zone's handler (R69). -/
def handlerOf : Zone → Instr
  | .idle      => .hIdle
  | .increment => .hInc
  | .decrement => .hDec
  | .reset     => .hReset
  | .expose    => .hExpose

/-- Two states that differ at most in what the spec calls observation: the time, the trace and the shadow cursor (R16, R21, R22). -/
structure SameButObserved (s t : State) : Prop where
  cfg     : t.cfg = s.cfg
  bus     : sameBus s t
  relay   : t.relay = s.relay
  et      : t.et = s.et
  sample  : t.sample = s.sample
  zone    : t.zone = s.zone
  tick    : t.tick = s.tick
  seq     : t.seq = s.seq
  phaseEt : t.phaseEt = s.phaseEt
  script  : t.script = s.script
  env     : t.env = s.env

/-! ## What the display takes -/

/-- The bus words the display takes along a trace that starts at reset: the levels of RS, RW and DB at each fall of `E` (R32, R42).
The first argument is the state whose lines the trace starts from, the second holds the words taken so far, the last first. -/
def wordsTaken : State → List (BitVec 6) → List Event → List (BitVec 6)
  | _, ws, [] => ws.reverse
  | s, ws, .set l v _ :: evs =>
    wordsTaken (s.setLine l v) (if s.e = 1 ∧ (s.setLine l v).e = 0 then (s.setLine l v).busWord :: ws else ws) evs
  | s, ws, .wait _ _ :: evs | s, ws, .sample _ _ :: evs | s, ws, .err _ _ :: evs => wordsTaken s ws evs

/-- The bus words of a trace from reset, in order. -/
def busWords (trace : List Event) : List (BitVec 6) := wordsTaken State.reset [] trace

/-- Bus words two by two, the first word above the second (R43); a half byte at the end is left out. -/
def bytePairs : List (BitVec 6) → List (BitVec 12)
  | x :: y :: ws => (x ++ y) :: bytePairs ws
  | [_] | []     => []

/-! ## The bus discipline -/

/-- What the monitor of the bus remembers: the level of `E`, when RS, RW or DB was last driven, when `E` last rose and fell,
whether the next nibble is the second of its byte, and whether the discipline has held so far. -/
structure BusMonitor where
  e       : Bit
  lineSet : Nat
  rose    : Nat
  fell    : Option Nat
  second  : Bool
  ok      : Bool
deriving DecidableEq, Repr

/-- The monitor at the start of a trace. -/
def BusMonitor.start : BusMonitor := { e := 0, lineSet := 0, rose := 0, fell := none, second := false, ok := true }

/-- The least time of the next rise of `E`: within a byte only the setup time counts; before a byte the hold, the settle delay
and the setup time must have passed since the last fall (R54), and before the first byte the power-up delay, the settle delay and
the setup time since the start (R99). -/
def BusMonitor.mayRiseFrom (cfg : Config) (m : BusMonitor) : Nat :=
  match m.fell with
  | none   => cfg.tPowerup + cfg.tSettle + cfg.tSu
  | some f => if m.second then f + cfg.tH + cfg.tSu else f + cfg.tH + cfg.tSettle + cfg.tSu

/-- The hold time since the last fall of `E` has passed (R52). -/
def BusMonitor.held (cfg : Config) (m : BusMonitor) (t : Nat) : Bool :=
  match m.fell with
  | none   => true
  | some f => decide (f + cfg.tH ≤ t)

/-- A drive of RS, RW or DB: only while `E` is 0 and the hold time has passed (R52, R97). -/
def BusMonitor.line (cfg : Config) (t : Nat) (m : BusMonitor) : BusMonitor :=
  { m with lineSet := t, ok := m.ok && decide (m.e = 0) && m.held cfg t }

/-- A rise of `E`: from 0, with the lines stable for the setup time and the byte's delays passed (R52, R54, R97 to R99). -/
def BusMonitor.rise (cfg : Config) (t : Nat) (m : BusMonitor) : BusMonitor :=
  { m with e := 1, rose := t,
           ok := m.ok && decide (m.e = 0) && decide (m.lineSet + cfg.tSu ≤ t) && decide (m.mayRiseFrom cfg ≤ t) }

/-- A fall of `E`: from 1, the pulse width after its rise (R52, R97). -/
def BusMonitor.fall (cfg : Config) (t : Nat) (m : BusMonitor) : BusMonitor :=
  { m with e := 0, fell := some t, second := !m.second, ok := m.ok && decide (m.e = 1) && decide (m.rose + cfg.tPw ≤ t) }

/-- The monitor's next state. -/
def BusMonitor.see (cfg : Config) (m : BusMonitor) (ev : Event) : BusMonitor :=
  match ev with
  | .set .rs _ t | .set .db _ t => m.line cfg t
  | .set .rw v t => { m.line cfg t with ok := (m.line cfg t).ok && decide (v = 0) }
  | .set .e v t  => if bitLevel v = 1 then m.rise cfg t else m.fall cfg t
  | .set .relay _ _ | .wait _ _ | .sample _ _ | .err _ _ => m

/-- The bus discipline holds along a trace that starts at reset. -/
def busDisciplined (cfg : Config) (trace : List Event) : Bool := (trace.foldl (BusMonitor.see cfg) BusMonitor.start).ok

end Sys2Proof.Machine
end

