-- ==== Sys2Proof/Certificates/Slice0/Obligations.lean ====
section
/-!
DEFINITION. The statements for the provers. Each docstring says which rule of spec/ a statement formalises; where a clause is the
model's own choice it names the log entry.
-/

section

open Sys2Proof Sys2Proof.Machine

/-! ## Reset and the environment -/

/-- R93: a reset the platform asks for abandons whatever runs and leaves every line and register at its reset value, at whichever point
of the step it falls, within an operation or a wait too, as far as the operation runs; one that falls before the first action has
ended always does; and `State.reset` holds the same values. How a point within a step is named, and that the configuration stays, is the
model's (log entry 14). -/
def Obligations.ResetLeavesResetValues : Prop :=
  let atResetValues : State → Prop := fun t =>
    t.db = 0 ∧ t.rs = 0 ∧ t.rw = 0 ∧ t.e = 0 ∧ t.relay = 0 ∧ t.et = t.cfg.etReset ∧ t.curCol = 0 ∧ t.curLine = 0 ∧
    t.sample = none ∧ t.zone = none ∧ t.tick = none ∧ t.seq = .boot 0 ∧ t.time = 0 ∧ t.trace = []
  (∀ (s u : State) (p : ResetPoint), configOk s.cfg = true → s.env.reset = some p → abandoned p s = .next u →
    ∃ t, step s = .next t ∧ atResetValues t ∧ t.cfg = s.cfg) ∧
  (∀ (s : State) (p : ResetPoint), p.after = 0 → ∃ u, abandoned p s = .next u) ∧
  atResetValues State.reset ∧ State.reset.et = 1

/-- R6 and I21: a configuration whose bands overlap is rejected, whatever the block was about to do. -/
def Obligations.OverlappingBandsAreRejected : Prop :=
  ∀ (s : State) (i j : Nat) (a b : Band) (v : Nat), i < j → s.cfg.bands[i]? = some a → s.cfg.bands[j]? = some b →
    bandHolds a v = true → bandHolds b v = true → step s = .refused .badConfiguration

/-- R24: no step writes the configuration. -/
def Obligations.NoStepWritesTheConfiguration : Prop :=
  ∀ s t : State, step s = .next t → t.cfg = s.cfg

/-- R21 and R35: but for a reset, time never falls and the trace only grows at its end. -/
def Obligations.TimeNeverFallsAndTheTraceOnlyGrows : Prop :=
  ∀ s t : State, s.env.reset = none → step s = .next t → s.time ≤ t.time ∧ ∃ evs, t.trace = s.trace ++ evs

/-- R35: every step keeps the trace in the order of time. -/
def Obligations.EveryStepKeepsTheTraceInTimeOrder : Prop :=
  ∀ s t : State, traceOrdered s → step s = .next t → traceOrdered t

/-! ## The four primitives -/

/-- R22: each primitive appends exactly one event, stamped with the time at which it is performed, also a drive to the level a line
already holds, which changes no level; a register write appends nothing; the trace is empty at reset. -/
def Obligations.EachPrimitiveAppendsOneStampedEvent : Prop :=
  (∀ (s t : State) (l : Line) (v : Nibble), perform (.drive l v) s = .next t → t.trace = s.trace ++ [.set l v s.time]) ∧
  (∀ (s t : State) (l l' : Line), perform (.drive l (s.lineLevel l)) s = .next t → t.lineLevel l' = s.lineLevel l') ∧
  (∀ (s t : State) (d : Nat), perform (.wait d) s = .next t → t.trace = s.trace ++ [.wait d s.time]) ∧
  (∀ s t : State, perform .sample s = .next t → ∃ v, t.sample = some v ∧ t.trace = s.trace ++ [.sample v s.time]) ∧
  (∀ (s t : State) (k : ErrKind), perform (.note k) s = .next t → t.trace = s.trace ++ [.err k s.time]) ∧
  (∀ (s t : State) (a : Action), a = .classify ∨ (∃ v, a = .setEt v) ∨ (∃ c l, a = .setCur c l) ∨ (∃ v, a = .setTick v) →
    perform a s = .next t → t.trace = s.trace) ∧
  (∀ (s : State) (q : Seq), (s.setSeq q).trace = s.trace) ∧
  State.reset.trace = []

/-- DRIVE sets the one line to the level, also where it already holds it, and records it; nothing else changes. -/
def Obligations.DriveSetsOneLine : Prop :=
  ∀ (l : Line) (v : Nibble) (s : State), levelAdmitted l v = true →
    ∃ t, exec (.drive l v) s = .next t ∧ t.lineLevel l = v ∧ (∀ l', l' ≠ l → t.lineLevel l' = s.lineLevel l') ∧
      t.trace = s.trace ++ [.set l v s.time] ∧ takes s t 0 ∧
      SameSurroundings s t ∧ samePosition s t ∧ sameQuantizer s t ∧ sameCursor s t ∧ t.et = s.et ∧ t.tick = s.tick

/-- R50: DRIVE on RW admits only 0; a level other than 0 or 1 on a 1-bit line is refused by name; so does the notation. -/
def Obligations.DriveRefusesWhatItsLineDoesNotAdmit : Prop :=
  (∀ s : State, exec (.drive .rw 1) s = .refused .readTransfer) ∧
  (∀ (s : State) (l : Line) (v : Nibble), l ≠ .db → 1 < v.toNat → exec (.drive l v) s = .refused (.badLevel l v)) ∧
  (∀ v : Nibble, v ≠ 0 → decode (encode (.drive .rw v)) = .error (if v = 1 then .readTransfer else .badLevel))

/-- R85: `wait(d)` records its start and lets at least d and at most d + DELAY_EXCESS microseconds pass, exactly d in deterministic
timing; every line keeps its level and nothing is read. -/
def Obligations.WaitLastsAtLeastItsLength : Prop :=
  ∀ (d : Nat) (s : State),
    ∃ t, exec (.wait d) s = .next t ∧ t.trace = s.trace ++ [.wait d s.time] ∧ takes s t d ∧
      (∀ b, s.cfg.delayExcess = some b → t.time ≤ s.time + d + b) ∧
      SameBeyondDisplay s t ∧ sameBus s t ∧ sameCursor s t

/-- R88: `sample()` answers a value in [0, SAMPLE_MAX]: the sample script's next one, or a free one; it is recorded and kept in
`SAMPLE`, and nothing else changes. -/
def Obligations.SampleReadsOneValueInRange : Prop :=
  ∀ s : State, samplesInRange s →
    ∃ t v, exec .sample s = .next t ∧ t.sample = some v ∧ v ≤ sampleMax s.cfg ∧
      (∀ x xs, s.env.samples = x :: xs → v = x) ∧ t.env.samples = s.env.samples.tail ∧
      t.trace = s.trace ++ [.sample v s.time] ∧ takes s t 0 ∧
      SameSurroundings s t ∧ samePosition s t ∧ sameBus s t ∧ sameCursor s t ∧
      t.relay = s.relay ∧ t.et = s.et ∧ t.tick = s.tick ∧ t.zone = s.zone

/-- R80: `note(k)` appends `Err(k, T)` and does nothing else; that its time may be a draw is the model's (log entry 7). -/
def Obligations.NoteOnlyRecordsTheError : Prop :=
  ∀ (k : ErrKind) (s : State),
    ∃ t, exec (.note k) s = .next t ∧ t.trace = s.trace ++ [.err k s.time] ∧ takes s t 0 ∧
      SameBeyondDisplay s t ∧ sameBus s t ∧ sameCursor s t

/-- R101 and R85: when CYCLES_PER_US is at least the clock's true rate, the cycles a wait counts last at least its length; a
constant that is too small shortens some wait. -/
def Obligations.CalibratedWaitsAreLongEnough : Prop :=
  (∀ (cfg : Config) (clock : Ratio) (d : Nat),
    clock.num * (cfg.cyclesPerUs.denPred + 1) ≤ cfg.cyclesPerUs.num * (clock.denPred + 1) →
      cyclesLast clock (waitCycles cfg d) d) ∧
  (∀ (cfg : Config) (clock : Ratio),
    cfg.cyclesPerUs.num * (clock.denPred + 1) < clock.num * (cfg.cyclesPerUs.denPred + 1) →
      ∃ d, ¬ cyclesLast clock (waitCycles cfg d) d)

/-! ## Transport -/

/-- R51: `sendNibble` drives RS, RW and DB, then gives one enable pulse: eight events in that order; `E` is 0 when it ends; no other
register is written; in deterministic timing the events stand at the worked example's times. -/
def Obligations.SendNibbleGivesOnePulse : Prop :=
  ∀ (rs : RegSel) (n : Nibble) (s : State),
    ∃ t, exec (.sendNib rs n) s = .next t ∧ appends s t (nibbleSignals s.cfg rs n) ∧
      t.rs = rsBit rs ∧ t.rw = 0 ∧ t.db = n ∧ t.e = 0 ∧ t.busWord = rsBit rs ++ (0 : Bit) ++ n ∧ takes s t (nibbleTime s.cfg) ∧
      (deterministic s → t.trace = s.trace ++
        [ .set .rs (levelOfBit (rsBit rs)) s.time, .set .rw 0 s.time, .set .db n s.time, .wait s.cfg.tSu s.time,
          .set .e 1 (s.time + s.cfg.tSu), .wait s.cfg.tPw (s.time + s.cfg.tSu),
          .set .e 0 (s.time + s.cfg.tSu + s.cfg.tPw), .wait s.cfg.tH (s.time + s.cfg.tSu + s.cfg.tPw) ]) ∧
      SameBeyondDisplay s t ∧ sameCursor s t

/-- BUSWORD: one enable pulse carries the bus word, RS in bit 5, RW = 0 in bit 4, the nibble below (R42). -/
def Obligations.BusWordIsCarriedByOnePulse : Prop :=
  ∀ (rs : RegSel) (n : Nibble) (s : State),
    ∃ t, exec (.busWord rs n) s = .next t ∧ t.busWord = rsBit rs ++ (0 : Bit) ++ n ∧ t.e = 0 ∧
      appends s t (nibbleSignals s.cfg rs n) ∧ takes s t (nibbleTime s.cfg) ∧ SameBeyondDisplay s t ∧ sameCursor s t

/-- R52: setup, pulse width and hold of both nibbles of a byte, and the distances between them, as lower bounds on the times of
the trace, in every timing. -/
def Obligations.NibbleTimingHasItsLowerBounds : Prop :=
  ∀ (rs : RegSel) (v : Byte) (s t : State), exec (.sendByte rs v) s = .next t →
    ∃ w a1 a2 a3 a4 a5 a6 a7 a8 b1 b2 b3 b4 b5 b6 b7 b8 : Nat,
      t.trace = s.trace ++
        [ .wait s.cfg.tSettle w,
          .set .rs (levelOfBit (rsBit rs)) a1, .set .rw 0 a2, .set .db (highNibble v) a3, .wait s.cfg.tSu a4,
          .set .e 1 a5, .wait s.cfg.tPw a6, .set .e 0 a7, .wait s.cfg.tH a8,
          .set .rs (levelOfBit (rsBit rs)) b1, .set .rw 0 b2, .set .db (lowNibble v) b3, .wait s.cfg.tSu b4,
          .set .e 1 b5, .wait s.cfg.tPw b6, .set .e 0 b7, .wait s.cfg.tH b8 ] ∧
      w = s.time ∧ w + s.cfg.tSettle ≤ a1 ∧
      a1 ≤ a2 ∧ a2 ≤ a3 ∧ a3 + s.cfg.tSu ≤ a5 ∧ a5 + s.cfg.tPw ≤ a7 ∧ a7 + s.cfg.tH ≤ b1 ∧
      b1 ≤ b2 ∧ b2 ≤ b3 ∧ b3 + s.cfg.tSu ≤ b5 ∧ b5 + s.cfg.tPw ≤ b7 ∧ b7 + s.cfg.tH ≤ t.time ∧
      a7 + s.cfg.tH + s.cfg.tSu ≤ b5 ∧ a7 + s.cfg.tSu + s.cfg.tPw + s.cfg.tH ≤ b7

/-- R53: `sendByte` is the settle delay, the high nibble, then the low nibble with the same register-select, for commands and data
alike; it leaves the low nibble on DB and `E` at 0. -/
def Obligations.SendByteSendsHighThenLow : Prop :=
  ∀ (rs : RegSel) (v : Byte) (s : State),
    exec (.sendByte rs v) s = execAll [.wait s.cfg.tSettle, .sendNib rs (highNibble v), .sendNib rs (lowNibble v)] s ∧
    ∃ t, exec (.sendByte rs v) s = .next t ∧ appends s t (byteSignals s.cfg rs v) ∧ busAfterByte rs v t ∧
      takes s t (byteTime s.cfg) ∧ SameBeyondDisplay s t ∧ sameCursor s t

/-- BYTEPAIR: the byte of the two bus words is sent as `sendByte` sends it (R43, R54). -/
def Obligations.BytePairIsSentAsAByte : Prop :=
  ∀ (rs : RegSel) (v : Byte) (s : State),
    exec (.bytePair rs v) s = exec (.sendByte rs v) s ∧
    ∃ t, exec (.bytePair rs v) s = .next t ∧ appends s t (byteSignals s.cfg rs v) ∧ busAfterByte rs v t ∧
      takes s t (byteTime s.cfg) ∧ SameBeyondDisplay s t ∧ sameCursor s t

/-! ## Display driver -/

/-- R56: `putCommand` sends its byte with RS = 0 whatever the byte is; `CUR` does not change. -/
def Obligations.PutCommandSendsACommandByte : Prop :=
  ∀ (v : Byte) (s : State),
    exec (.putCmd v) s = exec (.sendByte .command v) s ∧
    ∃ t, exec (.putCmd v) s = .next t ∧ appends s t (byteSignals s.cfg .command v) ∧ busAfterByte .command v t ∧
      takes s t (byteTime s.cfg) ∧ SameBeyondDisplay s t ∧ sameCursor s t

/-- R57: `putChar` sends the character's code with RS = 1; no register of the block is written. -/
def Obligations.PutCharSendsADataByte : Prop :=
  ∀ (ch : Byte) (s : State),
    exec (.putChar ch) s = exec (.sendByte .data ch) s ∧
    ∃ t, exec (.putChar ch) s = .next t ∧ appends s t (byteSignals s.cfg .data ch) ∧ busAfterByte .data ch t ∧
      takes s t (byteTime s.cfg) ∧ SameBeyondDisplay s t ∧ sameCursor s t

/-- The six command forms of R44 send the byte of their pattern, fields included, as command bytes; DATA sends its code as a data
byte (R46). -/
def Obligations.CommandFormsSendTheirPattern : Prop :=
  ∀ (x i sh d c b l n f : Bit) (a : BitVec 7) (ch : Byte) (s : State),
    ∀ p ∈ ([(.cmdClear, .command, 0b00000001), (.cmdReset x, .command, (0b0000001 : BitVec 7) ++ x),
        (.cmdEntryMode i sh, .command, (0b000001 : BitVec 6) ++ i ++ sh),
        (.cmdDisplayCtrl d c b, .command, (0b00001 : BitVec 5) ++ d ++ c ++ b),
        (.cmdFunctionSet l n f, .command, (0b001 : BitVec 3) ++ l ++ n ++ f ++ (0b00 : BitVec 2)),
        (.cmdSetDdram a, .command, (0b1 : Bit) ++ a), (.data ch, .data, ch)] : List (Instr × RegSel × Byte)),
      ∃ t, exec p.1 s = .next t ∧ appends s t (byteSignals s.cfg p.2.1 p.2.2) ∧ busAfterByte p.2.1 p.2.2 t ∧
        takes s t (byteTime s.cfg) ∧ SameBeyondDisplay s t ∧ sameCursor s t

/-- R58: `putString` writes the characters in order; the empty string sends nothing and takes no time. -/
def Obligations.PutStringSendsItsCharactersInOrder : Prop :=
  ∀ (str : List Byte) (s : State),
    exec (.putStr str) s = execAll (str.map Instr.putChar) s ∧ (str = [] → exec (.putStr str) s = .next s) ∧
    ∃ t, exec (.putStr str) s = .next t ∧ appends s t (textSignals s.cfg str) ∧
      (∀ v, str.getLast? = some v → busAfterByte .data v t) ∧
      takes s t (str.length * byteTime s.cfg) ∧ SameBeyondDisplay s t ∧ sameCursor s t

/-- R59: in range, the set-address command of the cell, the settle delay, and `CUR`; out of range, one `Err(AddressOutOfRange)` and
no bus event, no register, no waiting. That in range means below COLS and LINES as well as at most 15 and 1 is the model's reading of
the range test for every geometry (log entry 22); with the default geometry it is R59's own test. -/
def Obligations.GotoMovesTheCursorOnlyInRange : Prop :=
  ∀ (c l : Nat) (s : State),
    ∃ t, exec (.gotoPos c l) s = .next t ∧ SameBeyondDisplay s t ∧
      if c < s.cfg.cols ∧ c ≤ 15 ∧ l < s.cfg.lines ∧ l ≤ 1 then
        exec (.gotoPos c l) s = andThen (execAll [.putCmd (setAddressByte s.cfg c l), .wait s.cfg.tSettle] s)
          (perform (.setCur (BitVec.ofNat 4 c) (BitVec.ofNat 1 l))) ∧
        appends s t (gotoSignals s.cfg c l) ∧ t.curCol.toNat = c ∧ t.curLine.toNat = l ∧
        busAfterByte .command (setAddressByte s.cfg c l) t ∧ takes s t (gotoTime s.cfg)
      else t.trace = s.trace ++ [.err .addressOutOfRange s.time] ∧ sameBus s t ∧ sameCursor s t ∧ takes s t 0

/-- R45: with the default parameters the command byte of a cell is 0x80 + c on line 0 and 0xC0 + c on line 1. -/
def Obligations.SetAddressByteOfEachCell : Prop :=
  ∀ (c l : Nat), c < 16 → l < 2 → (setAddressByte Config.default c l).toNat = 0x80 + 0x40 * l + c

/-- R60: `initialize` waits for the power, sends the five commands in order, and moves to the first cell. -/
def Obligations.InitSendsItsSequence : Prop :=
  ∀ s : State, standardGeometry s.cfg →
    exec .init s = execAll [.wait s.cfg.tPowerup, .putCmd s.cfg.cmdReset, .putCmd s.cfg.cmdFunctionSet,
      .putCmd s.cfg.cmdDisplayCtrl, .putCmd s.cfg.cmdEntryMode, .putCmd s.cfg.cmdClear, .gotoPos 0 0] s ∧
    ∃ t, exec .init s = .next t ∧ appends s t (initSignals s.cfg) ∧ t.curCol = 0 ∧ t.curLine = 0 ∧
      busAfterByte .command (setAddressByte s.cfg 0 0) t ∧ takes s t (initTime s.cfg) ∧ SameBeyondDisplay s t

/-- R62: `writeAt` is `gotoPosition` then `putString`; out of range the error is noted and the text still written. That in range
means below COLS and LINES as well as at most 15 and 1 is the model's reading for every geometry (log entry 22). -/
def Obligations.WriteAtIsGotoThenPutString : Prop :=
  ∀ (c l : Nat) (str : List Byte) (s : State),
    exec (.writeAt c l str) s = execAll [.gotoPos c l, .putStr str] s ∧
    ∃ t, exec (.writeAt c l str) s = .next t ∧ SameBeyondDisplay s t ∧
      if c < s.cfg.cols ∧ c ≤ 15 ∧ l < s.cfg.lines ∧ l ≤ 1 then
        appends s t (writeAtSignals s.cfg c l str) ∧ t.curCol.toNat = c ∧ t.curLine.toNat = l ∧
          takes s t (writeAtTime s.cfg str.length)
      else
        appends s t (.err .addressOutOfRange :: textSignals s.cfg str) ∧ sameCursor s t ∧
          takes s t (str.length * byteTime s.cfg)

/-- R63: `renderLine` writes the text from column 0, padded with spaces to 16 characters; a longer text is refused, by the notation
and by the operation (R50); on any other line it is `writeAt` there too (R49; log entry 8), which notes the position and writes the text. -/
def Obligations.RenderWritesAWholeLine : Prop :=
  ∀ (l : Nat) (str : List Byte) (s : State), standardGeometry s.cfg →
    (str.length ≤ 16 →
      exec (.render l str) s = exec (.writeAt 0 l (str ++ List.replicate (16 - str.length) 0x20)) s ∧
      ∃ t, exec (.render l str) s = .next t ∧ SameBeyondDisplay s t ∧
        (l ≤ 1 → appends s t (lineSignals s.cfg l str) ∧ t.curCol = 0 ∧ t.curLine.toNat = l ∧ takes s t (lineTime s.cfg)) ∧
        (1 < l → appends s t (.err .addressOutOfRange :: textSignals s.cfg (padLine s.cfg str)) ∧ sameCursor s t)) ∧
    (16 < str.length →
      exec (.render l str) s = .refused (.renderTooLong str.length) ∧
      (quotable str = true → decode (encode (.render l str)) = .error .renderTooLong))

/-- R61: `dec(v)` is one digit below 10 and two up to 99; above, it has no text and a handler that asks for one faults. -/
def Obligations.DecIsOneOrTwoDigits : Prop :=
  (∀ v, v < 10 → decText v = some [BitVec.ofNat 8 (0x30 + v)]) ∧
  (∀ v, 10 ≤ v → v ≤ 99 → decText v = some [BitVec.ofNat 8 (0x30 + v / 10), BitVec.ofNat 8 (0x30 + v % 10)]) ∧
  (∀ v, 99 < v → decText v = none) ∧
  (∀ s : State, 99 < s.et.toNat → exec .hExpose s = .fault (.decOutOfDomain s.et.toNat)) ∧
  (∀ s : State, 99 < (incremented s.cfg s.et).toNat → exec .hInc s = .fault (.decOutOfDomain (incremented s.cfg s.et).toNat)) ∧
  (∀ s : State, 99 < (decremented s.cfg s.et).toNat → exec .hDec s = .fault (.decOutOfDomain (decremented s.cfg s.et).toNat))

/-! ## Quantizer -/

/-- R66: with the default bands `classify` is the pseudocode's five cases; with any disjoint bands the order of the tests does not
matter, and a zone's code is never a reserved one. R68: a sample above 1023 is Idle, whatever the bands. -/
def Obligations.ClassifyFollowsTheBands : Prop :=
  (∀ (cfg : Config) (v : Nat), cfg.bands = Config.defaultBands →
    classify cfg v = if 700 < v ∧ v < 800 then .increment else if 600 < v ∧ v < 700 then .decrement
      else if 500 < v ∧ v < 600 then .reset else if v < 10 then .expose else .idle) ∧
  (∀ (bands bands' : List Band) (v : Nat), bandsDisjoint bands = true → bands.Perm bands' →
    classifyWith bands v = classifyWith bands' v) ∧
  (∀ (cfg : Config) (v : Nat), v ≤ 1023 → classify cfg v = classifyWith cfg.bands v) ∧
  (∀ (cfg : Config) (v : Nat), 1023 < v → classify cfg v = .idle) ∧
  (∀ z : Zone, zoneOfCode (zoneCode z) = some z)

/-- R65: of the 1024 samples, 99 are Increment, 99 Decrement, 99 Reset, 10 Expose and 717 Idle. -/
def Obligations.DefaultBandCounts : Prop :=
  [Zone.increment, .decrement, .reset, .expose, .idle].map
      (fun z => ((List.range 1024).filter (fun v => classify Config.default v = z)).length)
    = [99, 99, 99, 10, 717]

/-- CLASSIFY writes the zone's code of the sample and nothing else (R66); it faults where `SAMPLE` has no value (R17). -/
def Obligations.ClassifyWritesTheZone : Prop :=
  (∀ (s : State) (v : Nat), s.sample = some v →
    ∃ t, exec .classify s = .next t ∧ t.zone = some (zoneCode (classify s.cfg v)) ∧ t.trace = s.trace ∧ takes s t 0 ∧
      SameSurroundings s t ∧ samePosition s t ∧ sameBus s t ∧ sameCursor s t ∧ t.relay = s.relay ∧ t.et = s.et ∧
      t.tick = s.tick ∧ t.sample = s.sample ∧ t.env.samples = s.env.samples) ∧
  (∀ s : State, s.sample = none → exec .classify s = .fault .sampleUnwritten)

/-- The five zone codes enter the handler phase of their zone (R47, R20); that the code is also left in `ZONE` is the model's (log
entry 11). -/
def Obligations.ZoneCodesEnterTheirHandler : Prop :=
  ∀ s : State, ∀ p ∈ ([(.zoneIdle, .idle, 0b000), (.zoneIncrement, .increment, 0b001), (.zoneDecrement, .decrement, 0b010),
      (.zoneReset, .reset, 0b011), (.zoneExpose, .expose, 0b100)] : List (Instr × Zone × ZoneCode)),
    ∃ t, exec p.1 s = .next t ∧ t.seq = .handle p.2.1 0 ∧ t.zone = some p.2.2 ∧ t.trace = s.trace ∧ takes s t 0 ∧
      SameSurroundings s t ∧ sameBus s t ∧ sameCursor s t ∧ t.relay = s.relay ∧ t.et = s.et ∧ t.tick = s.tick ∧
      t.sample = s.sample ∧ t.phaseEt = s.phaseEt

/-- R50: a reserved zone code faults and does not dispatch: as an instruction, at the dispatch, and at the end of POLL. -/
def Obligations.ReservedZoneCodesFault : Prop :=
  (∀ (c : ZoneCode) (s : State), exec (.zoneReserved c) s = .fault (.reservedZone c)) ∧
  (∀ (c : ZoneCode) (s : State), 4 < c.toNat → s.zone = some c → dispatch s = .fault (.reservedZone c)) ∧
  (∀ (c : ZoneCode) (s : State), 4 < c.toNat → configOk s.cfg = true → s.env.reset = none → s.script = [] →
    s.seq = .poll 2 → outOfCalibratedBand s.sample = false → s.zone = some c → step s = .fault (.reservedZone c))

/-! ## Exposure controller -/

/-- R71: the Increment handler adds one second, clamped at ET_MAX, shows the value on line 0 and waits, also at the clamp; line 1
and the relay are not touched. -/
def Obligations.IncrementAddsOneSecondClamped : Prop :=
  ∀ s : State, standardGeometry s.cfg → s.et ≤ s.cfg.etMax → s.cfg.etMax.toNat ≤ 99 →
    ∃ t, exec .hInc s = .next t ∧ t.et.toNat = min (s.et.toNat + 1) s.cfg.etMax.toNat ∧
      appends s t (lineSignals s.cfg 0 (seconds t.et.toNat textSecExposure) ++ [.wait s.cfg.tAdjust]) ∧
      t.curCol = 0 ∧ t.curLine = 0 ∧ takes s t (lineTime s.cfg + s.cfg.tAdjust) ∧
      SameSurroundings s t ∧ samePosition s t ∧ sameQuantizer s t ∧ t.relay = s.relay ∧ t.tick = s.tick

/-- R72: the Decrement handler takes one second off, clamped at ET_MIN, shows the value on line 0 and waits, also at the clamp. -/
def Obligations.DecrementTakesOneSecondClamped : Prop :=
  ∀ s : State, standardGeometry s.cfg → s.cfg.etMin ≤ s.et → s.et.toNat ≤ 99 →
    ∃ t, exec .hDec s = .next t ∧ t.et.toNat = max (s.et.toNat - 1) s.cfg.etMin.toNat ∧
      appends s t (lineSignals s.cfg 0 (seconds t.et.toNat textSecExposure) ++ [.wait s.cfg.tAdjust]) ∧
      t.curCol = 0 ∧ t.curLine = 0 ∧ takes s t (lineTime s.cfg + s.cfg.tAdjust) ∧
      SameSurroundings s t ∧ samePosition s t ∧ sameQuantizer s t ∧ t.relay = s.relay ∧ t.tick = s.tick

/-- R73: the Reset handler clears, shows "RESET", sets `ET` to ET_RESET whatever it was, shows the banner and clears; the relay is
not touched. -/
def Obligations.ResetHandlerRestoresOneSecond : Prop :=
  ∀ s : State, standardGeometry s.cfg →
    ∃ t, exec .hReset s = .next t ∧ t.et = s.cfg.etReset ∧
      appends s t (commandSignals s.cfg [s.cfg.cmdClear] ++ writeAtSignals s.cfg 0 0 textReset ++ [.wait s.cfg.tResetMsg]
        ++ bannerSignals s.cfg ++ commandSignals s.cfg [s.cfg.cmdClear]) ∧
      t.curCol = 0 ∧ t.curLine = 1 ∧
      takes s t (byteTime s.cfg + writeAtTime s.cfg 5 + s.cfg.tResetMsg + bannerTime s.cfg + byteTime s.cfg) ∧
      SameSurroundings s t ∧ samePosition s t ∧ sameQuantizer s t ∧ t.relay = s.relay ∧ t.tick = s.tick

/-- R74: the banner writes "ENLARGER" on line 0 and "TIMER V1" on line 1 and waits; it does not clear the display. -/
def Obligations.BannerShowsItsTwoLines : Prop :=
  ∀ s : State, standardGeometry s.cfg →
    exec .banner s = execAll [.writeAt 0 0 textEnlarger, .writeAt 0 1 textTimerV1, .wait s.cfg.tBanner] s ∧
    ∃ t, exec .banner s = .next t ∧ appends s t (bannerSignals s.cfg) ∧ t.curCol = 0 ∧ t.curLine = 1 ∧
      takes s t (bannerTime s.cfg) ∧ SameBeyondDisplay s t

/-- R75: the Expose handler renders both lines, energizes the relay, counts `ET` ticks showing the elapsed seconds upward, and
de-energizes the relay; `ET` is not written. -/
def Obligations.ExposeCountsItsSeconds : Prop :=
  ∀ s : State, standardGeometry s.cfg → s.et.toNat ≤ 99 →
    ∃ t, exec .hExpose s = .next t ∧ t.et = s.et ∧ t.tick = some s.et ∧ t.relay = 0 ∧
      appends s t (exposeSignals s.cfg s.et.toNat) ∧ t.curCol = 0 ∧ t.curLine = 1 ∧
      takes s t (2 * lineTime s.cfg + s.et.toNat * (s.cfg.tTick + lineTime s.cfg)) ∧
      SameSurroundings s t ∧ samePosition s t ∧ sameQuantizer s t

/-- R78: in an exposure of N seconds the relay is energized once and de-energized once, N ticks and N renders apart. -/
def Obligations.RelayIsOnForEveryTick : Prop :=
  ∀ s t : State, standardGeometry s.cfg → exec .hExpose s = .next t →
    ∃ pre mid on off, t.trace = s.trace ++ pre ++ [.set .relay 1 on] ++ mid ++ [.set .relay 0 off] ∧
      (∀ ev ∈ pre ++ mid, ∀ v x, ev ≠ .set .relay v x) ∧
      on + s.et.toNat * (s.cfg.tTick + lineTime s.cfg) ≤ off ∧
      (deterministic s → off = on + s.et.toNat * (s.cfg.tTick + lineTime s.cfg))

/-- R76: the Idle handler drives the relay to 0, every time, with no delay and no display change. -/
def Obligations.IdleDrivesTheRelayOff : Prop :=
  ∀ s : State,
    ∃ t, exec .hIdle s = .next t ∧ t.relay = 0 ∧ t.trace = s.trace ++ [.set .relay 0 s.time] ∧ takes s t 0 ∧
      SameSurroundings s t ∧ samePosition s t ∧ sameQuantizer s t ∧ sameBus s t ∧ sameCursor s t ∧ t.et = s.et ∧ t.tick = s.tick

/-- R69: one iteration samples once, classifies, notes a sample above 1023, and runs the handler of the zone and no other; the
next position is `POLL(0)`. The state entered is a function of the sample alone (R70). -/
def Obligations.PollRunsTheHandlerOfItsSample : Prop :=
  ∀ s : State, samplesInRange s →
    ∃ u v, v ≤ sampleMax s.cfg ∧ (∀ x xs, s.env.samples = x :: xs → v = x) ∧
      u.seq = .handle (classify s.cfg v) 0 ∧ u.sample = some v ∧ u.zone = some (zoneCode (classify s.cfg v)) ∧
      u.env.samples = s.env.samples.tail ∧ u.et = s.et ∧ u.relay = s.relay ∧ sameBus s u ∧ sameCursor s u ∧ u.tick = s.tick ∧
      SameSurroundings s u ∧
      appends s u (.sample v :: (if 1023 < v then [.err .sampleOutOfCalibratedBand] else [])) ∧
      exec .poll s = andThen (exec (handlerOf (classify s.cfg v)) u.latch) (fun t => .next (t.setSeq (.poll 0)))

/-- R69: an iteration always completes where `ET` is in a domain up to 99, and comes back to `POLL(0)`; what it leaves in `ET` and
`RELAY` is its zone's. -/
def Obligations.PollCompletes : Prop :=
  ∀ s : State, samplesInRange s → standardGeometry s.cfg → etInDomain s.cfg s.et → s.cfg.etMax.toNat ≤ 99 →
    ∃ t v, exec .poll s = .next t ∧ v ≤ sampleMax s.cfg ∧ (∀ x xs, s.env.samples = x :: xs → v = x) ∧
      t.seq = .poll 0 ∧ t.sample = some v ∧ t.zone = some (zoneCode (classify s.cfg v)) ∧
      t.env.samples = s.env.samples.tail ∧ SameSurroundings s t ∧
      t.et = (match classify s.cfg v with
        | .increment => incremented s.cfg s.et
        | .decrement => decremented s.cfg s.et
        | .reset => s.cfg.etReset
        | .expose | .idle => s.et) ∧
      t.relay = (match classify s.cfg v with
        | .expose | .idle => 0
        | .increment | .decrement | .reset => s.relay) ∧
      t.tick = (match classify s.cfg v with
        | .expose => some s.et
        | .increment | .decrement | .reset | .idle => s.tick)

/-- R95: the boot sequence initialises the display, shows the banner, clears, and enters the control loop; the relay is not driven. -/
def Obligations.BootEntersTheControlLoop : Prop :=
  ∀ s : State, standardGeometry s.cfg →
    exec .boot s = andThen (execAll [.init, .banner, .putCmd s.cfg.cmdClear] s.latch) (fun t => .next (t.setSeq (.poll 0))) ∧
    ∃ t, exec .boot s = .next t ∧ t.seq = .poll 0 ∧
      appends s t (initSignals s.cfg ++ bannerSignals s.cfg ++ commandSignals s.cfg [s.cfg.cmdClear]) ∧
      t.curCol = 0 ∧ t.curLine = 1 ∧ takes s t (initTime s.cfg + bannerTime s.cfg + byteTime s.cfg) ∧
      SameSurroundings s t ∧ sameQuantizer s t ∧ t.relay = s.relay ∧ t.et = s.et ∧ t.tick = s.tick

/-- R103: the durations of the operations in deterministic timing with the default parameters, row by row of its table. -/
def Obligations.DeterministicDurations : Prop :=
  ∀ s : State, deterministic s → s.cfg = Config.default →
    let lasts : Instr → Nat → Prop := fun i d => ∃ t, exec i s = .next t ∧ t.time = s.time + d
    (∀ rs n, lasts (.sendNib rs n) 30) ∧
    (∀ rs v, lasts (.sendByte rs v) 5060) ∧ (∀ v, lasts (.putCmd v) 5060) ∧ (∀ ch, lasts (.putChar ch) 5060) ∧
    (∀ str, lasts (.putStr str) (str.length * 5060)) ∧
    (∀ c l, c < 16 → l < 2 → lasts (.gotoPos c l) 10060) ∧
    (∀ c l, 16 ≤ c ∨ 2 ≤ l → lasts (.gotoPos c l) 0) ∧
    (∀ c l str, c < 16 → l < 2 → lasts (.writeAt c l str) (10060 + str.length * 5060)) ∧
    (∀ l str, l < 2 → str.length ≤ 16 → lasts (.render l str) 91020) ∧
    lasts .init 50360 ∧ lasts .banner 4101080 ∧ lasts .boot 4156500 ∧ lasts .hReset 5146560 ∧ lasts .hIdle 0 ∧
    (s.et.toNat ≤ 99 → lasts .hInc 291020 ∧ lasts .hDec 291020 ∧ lasts .hExpose (182040 + s.et.toNat * 1006020) ∧
      ∃ t pre mid on, exec .hExpose s = .next t ∧
        t.trace = s.trace ++ pre ++ [.set .relay 1 on] ++ mid ++ [.set .relay 0 (on + s.et.toNat * 1006020)] ∧
        ∀ ev ∈ mid, ∀ v x, ev ≠ .set .relay v x)

/-! ## Who writes what -/

/-- The registers are written by the operations the spec names and by no other: RELAY (R14), ET (R15), CUR (R16), SAMPLE (R17), ZONE
(R18), TICK (R19), SEQ (R20), the bus lines (R10 to R13, R64). -/
def Obligations.EachRegisterHasOnlyItsWriters : Prop :=
  ∀ (i : Instr) (s t : State), exec i s = .next t →
    (i ∉ [.hExpose, .hIdle, .poll] → (∀ v, i ≠ .drive .relay v) → t.relay = s.relay) ∧
    (i ∉ [.hInc, .hDec, .hReset, .poll] → t.et = s.et) ∧
    (i ∉ [.init, .banner, .boot, .hInc, .hDec, .hReset, .hExpose, .poll] → (∀ c l, i ≠ .gotoPos c l) →
      (∀ c l str, i ≠ .writeAt c l str) → (∀ l str, i ≠ .render l str) → sameCursor s t) ∧
    (i ∉ [.sample, .poll] → t.sample = s.sample) ∧
    (i ∉ [.classify, .poll, .zoneIdle, .zoneIncrement, .zoneDecrement, .zoneReset, .zoneExpose] → t.zone = s.zone) ∧
    (i ∉ [.hExpose, .poll] → t.tick = s.tick) ∧
    (i ∉ [.boot, .poll, .zoneIdle, .zoneIncrement, .zoneDecrement, .zoneReset, .zoneExpose] → t.seq = s.seq) ∧
    (i ∈ [.sample, .classify, .hIdle, .zoneIdle, .zoneIncrement, .zoneDecrement, .zoneReset, .zoneExpose] ∨ (∃ d, i = .wait d) ∨
      (∃ k, i = .note k) → sameBus s t)

/-- R16, R21 and R22: no rule reads `CUR`, `T` or the trace: two states that differ in these alone step alike. -/
def Obligations.ObservationsDecideNothing : Prop :=
  ∀ s s' : State, SameButObserved s s' →
    (∀ t, step s = .next t → ∃ t', step s' = .next t' ∧ SameButObserved t t') ∧
    (∀ x, step s = .fault x → step s' = .fault x) ∧ (∀ x, step s = .refused x → step s' = .refused x)

/-- R14: the relay line shows RELAY_ACTIVE_LEVEL exactly while `RELAY` is 1. -/
def Obligations.RelayLineFollowsItsActiveLevel : Prop :=
  ∀ s : State, s.relayLevel = s.cfg.relayActiveLevel ↔ s.relay = 1

/-! ## Encoding -/

/-- The bit patterns of R42 to R47 on words written out. -/
def Obligations.WordsDecodeToTheirInstructions : Prop :=
  decode (.busWord 0b000010) = .ok (.busWord .command 2) ∧ decode (.busWord 0b110000) = .error .readTransfer ∧
  decode (.bytePair 0b100100100001) = .ok (.bytePair .data 0x41) ∧ decode (.cmdByte 0x28) = .ok (.cmdFunctionSet 0 1 0) ∧
  decode (.cmdByte 0xC5) = .ok (.cmdSetDdram 0x45) ∧ decode (.zoneCode 0b011) = .ok .zoneReset ∧
  decode (.zoneCode 0b111) = .ok (.zoneReserved 0b111)

/-- R48 and R42 to R47: decoding the encoding of a well-formed instruction gives it back, with every operand at every value. -/
def Obligations.DecodeEncodeRoundTrip : Prop :=
  ∀ i : Instr, i.wf = true → decode (encode i) = .ok i

/-- R50: what the decoder accepts is well-formed: it never passes on an operand the spec refuses; and the mark 'outside the block's
program' stands on a PUTCMD of a byte of none of the six forms of R44, and on nothing else. That a byte has a form when it fits the
form's bit pattern is the model's (log entry 32). -/
def Obligations.DecodedInstructionsAreWellFormed : Prop :=
  (∀ (x : Encoded) (i : Instr), decode x = .ok i → i.wf = true) ∧
  (∀ i : Instr, i.outsideProgram = true ↔ ∃ v, i = .putCmd v ∧ ∀ j, decode (.cmdByte v) ≠ .ok j)

/-! ## The step -/

/-- A script's next operation is decoded and run, at the state with the rest of the script; one the notation refuses is refused by
its name (R48, R50). -/
def Obligations.StepRunsTheScriptsNextOperation : Prop :=
  ∀ (s : State) (op : Encoded) (rest : List Encoded), configOk s.cfg = true → s.env.reset = none → s.script = op :: rest →
    (∀ i, decode op = .ok i → step s = exec i (s.setScript rest)) ∧
    (∀ err, decode op = .error err → step s = .refused (.badScript err))

/-- R20: without a script, a step performs the action at the position's index; then the index is one more, or, past the end of the
list, BOOT and every handler go to `POLL(0)` and POLL dispatches. That POLL's list is judged by the sample just taken (R69, log entry
12), that a handler's is judged by `ET` as the phase found it (log entry 13), and that the transfer takes place in the same step (log
entry 20) are the model's. -/
def Obligations.StepPerformsTheActionAtItsIndex : Prop :=
  ∀ (s u : State) (as bs : List Action) (a : Action), configOk s.cfg = true → s.env.reset = none → s.script = [] →
    s.phaseList = .ok as → as[s.seq.index]? = some a → perform a s.atPhaseStart = .next u → u.runningList = .ok bs →
    (s.seq.index + 1 < bs.length → step s = .next (u.setSeq (s.seq.atIndex (s.seq.index + 1)))) ∧
    (bs.length ≤ s.seq.index + 1 →
      ((∃ k, s.seq = .boot k) ∨ (∃ z k, s.seq = .handle z k) → step s = .next (u.setSeq (.poll 0))) ∧
      (∀ k z, s.seq = .poll k → u.zone = some (zoneCode z) → step s = .next (enterHandler z u)))

/-! ## The block's own program -/

/-- R26 and R79: the block running its own program takes every step, to a state of the same kind: it never faults, is never
refused, keeps `ET` in its domain, and keeps RELAY, E and RW as its position says. -/
def Obligations.OwnProgramNeverStopsAndKeepsItsInvariant : Prop :=
  ∀ s : State, RunsOwnProgram s → ∃ t, step s = .next t ∧ RunsOwnProgram t

/-- The state after reset runs the block's own program. -/
def Obligations.ResetRunsTheOwnProgram : Prop := RunsOwnProgram State.reset

/-- R26: the invariants in the spec's words, of every state that runs the block's own program with the default domain of `ET`. -/
def Obligations.InvariantsOfTheOwnProgram : Prop :=
  ∀ s : State, RunsOwnProgram s → s.cfg.etMin = 1 → s.cfg.etMax = 99 →
    (1 ≤ s.et.toNat ∧ s.et.toNat ≤ 99) ∧ s.curCol.toNat ≤ 15 ∧ s.curLine.toNat ≤ 1 ∧
    (s.relay = 1 → ∃ k as, s.seq = .handle .expose k ∧ s.phaseList = .ok as ∧
      .drive .relay 1 ∈ as.take k ∧ .drive .relay 0 ∉ as.take k) ∧
    (s.e = 1 → ∃ as pre rs n done, s.phaseList = .ok as ∧ as.take s.seq.index = pre ++ done ∧
      done <+: sendNibbleActions s.cfg rs n ∧ .drive .e 1 ∈ done ∧ .drive .e 0 ∉ done) ∧
    s.rw = 0

/-- R20 and R95: from `BOOT(0)` the block's own steps, one primitive action each, do what the boot sequence does as a whole. That there
are exactly as many steps as actions, the return to the loop in the last, is the model's (log entry 20). -/
def Obligations.BootStepsRefineTheBootSequence : Prop :=
  ∀ s : State, configOk s.cfg = true → s.env.reset = none → s.script = [] → s.seq = .boot 0 →
    Sys2Proof.core.run (bootActions s.cfg).length s = exec .boot s

/-- R20 and R69: from `POLL(0)` the block's own steps do what one control-loop iteration does as a whole, stops included. -/
def Obligations.PollStepsRefineTheIteration : Prop :=
  ∀ s : State, configOk s.cfg = true → s.env.reset = none → s.script = [] → s.seq = .poll 0 →
    ∃ n, Sys2Proof.core.run n s = exec .poll s

/-- R54 and R97 to R99: along every run of the block's own program from reset, under every configuration and every environment that
gives its samples in range or not, the display bus keeps its discipline: setup, pulse width, hold, the settle delay before
every byte, the power-up delay before the first, and no drive of a line while `E` is 1. -/
def Obligations.OwnProgramKeepsTheBusDiscipline : Prop :=
  ∀ (cfg : Config) (env : Env) (n : Nat) (t : State),
    Sys2Proof.core.run n (State.atReset cfg env []) = .next t → busDisciplined t.cfg t.trace = true

/-- R44, R46 and R81: along every run of the block's own program from reset with the default parameters, every byte the display
takes is one of the commands of R44 or one of the characters of R46, with RW = 0 and the same RS in both words (R43). -/
def Obligations.OwnProgramSendsOnlyItsCommandsAndCharacters : Prop :=
  ∀ (env : Env) (n : Nat) (t : State), Sys2Proof.core.run n (State.atReset Config.default env []) = .next t →
    ∀ w ∈ bytePairs (busWords t.trace), ∃ rs v, decode (.bytePair w) = .ok (.bytePair rs v) ∧
      match rs with
      | .command => v ∈ ([0x02, 0x28, 0x0C, 0x06, 0x01, 0x80, 0xC0] : List Byte)
      | .data    => v ∈ codes " 0123456789AEGILMNRSTVaceloprstux".toList

/-! ## The display as a receiver -/

/-- R37 to R41 (the spec's reference display model, from general knowledge): after `initialize` a display that was powered on with the
block is in step, on, without cursor and blink, blank, and at address 0, whatever its unspecified state and inputs were. -/
def Obligations.InitBringsTheDisplayIntoStep : Prop :=
  ∀ (w : DisplayDraws) (d : Display) (env : Env) (t : State), d.poweredOn = true →
    exec .init (State.atReset Config.default env []) = .next t →
    (t.display w d).inStep = true ∧ (t.display w d).on = 1 ∧ (t.display w d).cursor = 0 ∧ (t.display w d).blink = 0 ∧
      (t.display w d).ac = 0 ∧ (t.display w d).shifted = d.shifted ∧ (t.display w d).cells = List.replicate 128 0x20

/-- R63 with R40 (the reference display model): after `renderLine` a display in step shows the text on that line and the other line
as before. -/
def Obligations.RenderShowsItsTextAndNothingElse : Prop :=
  ∀ (w : DisplayDraws) (x : BusLines × Display) (l : Nat) (str : List Byte) (s t : State) (evs : List Event),
    s.cfg = Config.default → x.2.inStep = true → x.1.e = 0 → str.length ≤ 16 → l ≤ 1 →
    exec (.render l str) s = .next t → t.trace = s.trace ++ evs →
    (observe w evs x).2.shows l str ∧ (observe w evs x).2.inStep = true ∧ (observe w evs x).2.shifted = x.2.shifted ∧
      (observe w evs x).2.line (1 - l) = x.2.line (1 - l)

end
end

