-- ==== Sys2Proof/Laws/State.lean ====
section
/-!
SUPPORT. One lemma per field per update of the state, so that no later proof unfolds a record update.
-/

namespace Sys2Proof.Machine

variable (s : State)


/-! ### `State.record` -/

@[simp] theorem State.record_cfg (ev : Event) : (s.record ev).cfg = s.cfg := rfl
@[simp] theorem State.record_db (ev : Event) : (s.record ev).db = s.db := rfl
@[simp] theorem State.record_rs (ev : Event) : (s.record ev).rs = s.rs := rfl
@[simp] theorem State.record_rw (ev : Event) : (s.record ev).rw = s.rw := rfl
@[simp] theorem State.record_e (ev : Event) : (s.record ev).e = s.e := rfl
@[simp] theorem State.record_relay (ev : Event) : (s.record ev).relay = s.relay := rfl
@[simp] theorem State.record_et (ev : Event) : (s.record ev).et = s.et := rfl
@[simp] theorem State.record_curCol (ev : Event) : (s.record ev).curCol = s.curCol := rfl
@[simp] theorem State.record_curLine (ev : Event) : (s.record ev).curLine = s.curLine := rfl
@[simp] theorem State.record_sample (ev : Event) : (s.record ev).sample = s.sample := rfl
@[simp] theorem State.record_zone (ev : Event) : (s.record ev).zone = s.zone := rfl
@[simp] theorem State.record_tick (ev : Event) : (s.record ev).tick = s.tick := rfl
@[simp] theorem State.record_seq (ev : Event) : (s.record ev).seq = s.seq := rfl
@[simp] theorem State.record_time (ev : Event) : (s.record ev).time = s.time := rfl
@[simp] theorem State.record_trace (ev : Event) : (s.record ev).trace = s.trace ++ [ev] := rfl
@[simp] theorem State.record_phaseEt (ev : Event) : (s.record ev).phaseEt = s.phaseEt := rfl
@[simp] theorem State.record_script (ev : Event) : (s.record ev).script = s.script := rfl
@[simp] theorem State.record_env (ev : Event) : (s.record ev).env = s.env := rfl

/-! ### `State.elapse` -/

@[simp] theorem State.elapse_cfg (d : Nat) : (s.elapse d).cfg = s.cfg := rfl
@[simp] theorem State.elapse_db (d : Nat) : (s.elapse d).db = s.db := rfl
@[simp] theorem State.elapse_rs (d : Nat) : (s.elapse d).rs = s.rs := rfl
@[simp] theorem State.elapse_rw (d : Nat) : (s.elapse d).rw = s.rw := rfl
@[simp] theorem State.elapse_e (d : Nat) : (s.elapse d).e = s.e := rfl
@[simp] theorem State.elapse_relay (d : Nat) : (s.elapse d).relay = s.relay := rfl
@[simp] theorem State.elapse_et (d : Nat) : (s.elapse d).et = s.et := rfl
@[simp] theorem State.elapse_curCol (d : Nat) : (s.elapse d).curCol = s.curCol := rfl
@[simp] theorem State.elapse_curLine (d : Nat) : (s.elapse d).curLine = s.curLine := rfl
@[simp] theorem State.elapse_sample (d : Nat) : (s.elapse d).sample = s.sample := rfl
@[simp] theorem State.elapse_zone (d : Nat) : (s.elapse d).zone = s.zone := rfl
@[simp] theorem State.elapse_tick (d : Nat) : (s.elapse d).tick = s.tick := rfl
@[simp] theorem State.elapse_seq (d : Nat) : (s.elapse d).seq = s.seq := rfl
@[simp] theorem State.elapse_time (d : Nat) : (s.elapse d).time = s.time + d := rfl
@[simp] theorem State.elapse_trace (d : Nat) : (s.elapse d).trace = s.trace := rfl
@[simp] theorem State.elapse_phaseEt (d : Nat) : (s.elapse d).phaseEt = s.phaseEt := rfl
@[simp] theorem State.elapse_script (d : Nat) : (s.elapse d).script = s.script := rfl

/-! ### `State.setEt` -/

@[simp] theorem State.setEt_cfg (v : Seconds) : (s.setEt v).cfg = s.cfg := rfl
@[simp] theorem State.setEt_db (v : Seconds) : (s.setEt v).db = s.db := rfl
@[simp] theorem State.setEt_rs (v : Seconds) : (s.setEt v).rs = s.rs := rfl
@[simp] theorem State.setEt_rw (v : Seconds) : (s.setEt v).rw = s.rw := rfl
@[simp] theorem State.setEt_e (v : Seconds) : (s.setEt v).e = s.e := rfl
@[simp] theorem State.setEt_relay (v : Seconds) : (s.setEt v).relay = s.relay := rfl
@[simp] theorem State.setEt_et (v : Seconds) : (s.setEt v).et = v := rfl
@[simp] theorem State.setEt_curCol (v : Seconds) : (s.setEt v).curCol = s.curCol := rfl
@[simp] theorem State.setEt_curLine (v : Seconds) : (s.setEt v).curLine = s.curLine := rfl
@[simp] theorem State.setEt_sample (v : Seconds) : (s.setEt v).sample = s.sample := rfl
@[simp] theorem State.setEt_zone (v : Seconds) : (s.setEt v).zone = s.zone := rfl
@[simp] theorem State.setEt_tick (v : Seconds) : (s.setEt v).tick = s.tick := rfl
@[simp] theorem State.setEt_seq (v : Seconds) : (s.setEt v).seq = s.seq := rfl
@[simp] theorem State.setEt_time (v : Seconds) : (s.setEt v).time = s.time := rfl
@[simp] theorem State.setEt_trace (v : Seconds) : (s.setEt v).trace = s.trace := rfl
@[simp] theorem State.setEt_phaseEt (v : Seconds) : (s.setEt v).phaseEt = s.phaseEt := rfl
@[simp] theorem State.setEt_script (v : Seconds) : (s.setEt v).script = s.script := rfl
@[simp] theorem State.setEt_env (v : Seconds) : (s.setEt v).env = s.env := rfl

/-! ### `State.setCur` -/

@[simp] theorem State.setCur_cfg (c : Nibble) (l : Bit) : (s.setCur c l).cfg = s.cfg := rfl
@[simp] theorem State.setCur_db (c : Nibble) (l : Bit) : (s.setCur c l).db = s.db := rfl
@[simp] theorem State.setCur_rs (c : Nibble) (l : Bit) : (s.setCur c l).rs = s.rs := rfl
@[simp] theorem State.setCur_rw (c : Nibble) (l : Bit) : (s.setCur c l).rw = s.rw := rfl
@[simp] theorem State.setCur_e (c : Nibble) (l : Bit) : (s.setCur c l).e = s.e := rfl
@[simp] theorem State.setCur_relay (c : Nibble) (l : Bit) : (s.setCur c l).relay = s.relay := rfl
@[simp] theorem State.setCur_et (c : Nibble) (l : Bit) : (s.setCur c l).et = s.et := rfl
@[simp] theorem State.setCur_curCol (c : Nibble) (l : Bit) : (s.setCur c l).curCol = c := rfl
@[simp] theorem State.setCur_curLine (c : Nibble) (l : Bit) : (s.setCur c l).curLine = l := rfl
@[simp] theorem State.setCur_sample (c : Nibble) (l : Bit) : (s.setCur c l).sample = s.sample := rfl
@[simp] theorem State.setCur_zone (c : Nibble) (l : Bit) : (s.setCur c l).zone = s.zone := rfl
@[simp] theorem State.setCur_tick (c : Nibble) (l : Bit) : (s.setCur c l).tick = s.tick := rfl
@[simp] theorem State.setCur_seq (c : Nibble) (l : Bit) : (s.setCur c l).seq = s.seq := rfl
@[simp] theorem State.setCur_time (c : Nibble) (l : Bit) : (s.setCur c l).time = s.time := rfl
@[simp] theorem State.setCur_trace (c : Nibble) (l : Bit) : (s.setCur c l).trace = s.trace := rfl
@[simp] theorem State.setCur_phaseEt (c : Nibble) (l : Bit) : (s.setCur c l).phaseEt = s.phaseEt := rfl
@[simp] theorem State.setCur_script (c : Nibble) (l : Bit) : (s.setCur c l).script = s.script := rfl
@[simp] theorem State.setCur_env (c : Nibble) (l : Bit) : (s.setCur c l).env = s.env := rfl

/-! ### `State.setSample` -/

@[simp] theorem State.setSample_cfg (v : Nat) : (s.setSample v).cfg = s.cfg := rfl
@[simp] theorem State.setSample_db (v : Nat) : (s.setSample v).db = s.db := rfl
@[simp] theorem State.setSample_rs (v : Nat) : (s.setSample v).rs = s.rs := rfl
@[simp] theorem State.setSample_rw (v : Nat) : (s.setSample v).rw = s.rw := rfl
@[simp] theorem State.setSample_e (v : Nat) : (s.setSample v).e = s.e := rfl
@[simp] theorem State.setSample_relay (v : Nat) : (s.setSample v).relay = s.relay := rfl
@[simp] theorem State.setSample_et (v : Nat) : (s.setSample v).et = s.et := rfl
@[simp] theorem State.setSample_curCol (v : Nat) : (s.setSample v).curCol = s.curCol := rfl
@[simp] theorem State.setSample_curLine (v : Nat) : (s.setSample v).curLine = s.curLine := rfl
@[simp] theorem State.setSample_sample (v : Nat) : (s.setSample v).sample = some v := rfl
@[simp] theorem State.setSample_zone (v : Nat) : (s.setSample v).zone = s.zone := rfl
@[simp] theorem State.setSample_tick (v : Nat) : (s.setSample v).tick = s.tick := rfl
@[simp] theorem State.setSample_seq (v : Nat) : (s.setSample v).seq = s.seq := rfl
@[simp] theorem State.setSample_time (v : Nat) : (s.setSample v).time = s.time := rfl
@[simp] theorem State.setSample_trace (v : Nat) : (s.setSample v).trace = s.trace := rfl
@[simp] theorem State.setSample_phaseEt (v : Nat) : (s.setSample v).phaseEt = s.phaseEt := rfl
@[simp] theorem State.setSample_script (v : Nat) : (s.setSample v).script = s.script := rfl
@[simp] theorem State.setSample_env (v : Nat) : (s.setSample v).env = s.env := rfl

/-! ### `State.setZone` -/

@[simp] theorem State.setZone_cfg (c : ZoneCode) : (s.setZone c).cfg = s.cfg := rfl
@[simp] theorem State.setZone_db (c : ZoneCode) : (s.setZone c).db = s.db := rfl
@[simp] theorem State.setZone_rs (c : ZoneCode) : (s.setZone c).rs = s.rs := rfl
@[simp] theorem State.setZone_rw (c : ZoneCode) : (s.setZone c).rw = s.rw := rfl
@[simp] theorem State.setZone_e (c : ZoneCode) : (s.setZone c).e = s.e := rfl
@[simp] theorem State.setZone_relay (c : ZoneCode) : (s.setZone c).relay = s.relay := rfl
@[simp] theorem State.setZone_et (c : ZoneCode) : (s.setZone c).et = s.et := rfl
@[simp] theorem State.setZone_curCol (c : ZoneCode) : (s.setZone c).curCol = s.curCol := rfl
@[simp] theorem State.setZone_curLine (c : ZoneCode) : (s.setZone c).curLine = s.curLine := rfl
@[simp] theorem State.setZone_sample (c : ZoneCode) : (s.setZone c).sample = s.sample := rfl
@[simp] theorem State.setZone_zone (c : ZoneCode) : (s.setZone c).zone = some c := rfl
@[simp] theorem State.setZone_tick (c : ZoneCode) : (s.setZone c).tick = s.tick := rfl
@[simp] theorem State.setZone_seq (c : ZoneCode) : (s.setZone c).seq = s.seq := rfl
@[simp] theorem State.setZone_time (c : ZoneCode) : (s.setZone c).time = s.time := rfl
@[simp] theorem State.setZone_trace (c : ZoneCode) : (s.setZone c).trace = s.trace := rfl
@[simp] theorem State.setZone_phaseEt (c : ZoneCode) : (s.setZone c).phaseEt = s.phaseEt := rfl
@[simp] theorem State.setZone_script (c : ZoneCode) : (s.setZone c).script = s.script := rfl
@[simp] theorem State.setZone_env (c : ZoneCode) : (s.setZone c).env = s.env := rfl

/-! ### `State.setTick` -/

@[simp] theorem State.setTick_cfg (v : Seconds) : (s.setTick v).cfg = s.cfg := rfl
@[simp] theorem State.setTick_db (v : Seconds) : (s.setTick v).db = s.db := rfl
@[simp] theorem State.setTick_rs (v : Seconds) : (s.setTick v).rs = s.rs := rfl
@[simp] theorem State.setTick_rw (v : Seconds) : (s.setTick v).rw = s.rw := rfl
@[simp] theorem State.setTick_e (v : Seconds) : (s.setTick v).e = s.e := rfl
@[simp] theorem State.setTick_relay (v : Seconds) : (s.setTick v).relay = s.relay := rfl
@[simp] theorem State.setTick_et (v : Seconds) : (s.setTick v).et = s.et := rfl
@[simp] theorem State.setTick_curCol (v : Seconds) : (s.setTick v).curCol = s.curCol := rfl
@[simp] theorem State.setTick_curLine (v : Seconds) : (s.setTick v).curLine = s.curLine := rfl
@[simp] theorem State.setTick_sample (v : Seconds) : (s.setTick v).sample = s.sample := rfl
@[simp] theorem State.setTick_zone (v : Seconds) : (s.setTick v).zone = s.zone := rfl
@[simp] theorem State.setTick_tick (v : Seconds) : (s.setTick v).tick = some v := rfl
@[simp] theorem State.setTick_seq (v : Seconds) : (s.setTick v).seq = s.seq := rfl
@[simp] theorem State.setTick_time (v : Seconds) : (s.setTick v).time = s.time := rfl
@[simp] theorem State.setTick_trace (v : Seconds) : (s.setTick v).trace = s.trace := rfl
@[simp] theorem State.setTick_phaseEt (v : Seconds) : (s.setTick v).phaseEt = s.phaseEt := rfl
@[simp] theorem State.setTick_script (v : Seconds) : (s.setTick v).script = s.script := rfl
@[simp] theorem State.setTick_env (v : Seconds) : (s.setTick v).env = s.env := rfl

/-! ### `State.setSeq` -/

@[simp] theorem State.setSeq_cfg (q : Seq) : (s.setSeq q).cfg = s.cfg := rfl
@[simp] theorem State.setSeq_db (q : Seq) : (s.setSeq q).db = s.db := rfl
@[simp] theorem State.setSeq_rs (q : Seq) : (s.setSeq q).rs = s.rs := rfl
@[simp] theorem State.setSeq_rw (q : Seq) : (s.setSeq q).rw = s.rw := rfl
@[simp] theorem State.setSeq_e (q : Seq) : (s.setSeq q).e = s.e := rfl
@[simp] theorem State.setSeq_relay (q : Seq) : (s.setSeq q).relay = s.relay := rfl
@[simp] theorem State.setSeq_et (q : Seq) : (s.setSeq q).et = s.et := rfl
@[simp] theorem State.setSeq_curCol (q : Seq) : (s.setSeq q).curCol = s.curCol := rfl
@[simp] theorem State.setSeq_curLine (q : Seq) : (s.setSeq q).curLine = s.curLine := rfl
@[simp] theorem State.setSeq_sample (q : Seq) : (s.setSeq q).sample = s.sample := rfl
@[simp] theorem State.setSeq_zone (q : Seq) : (s.setSeq q).zone = s.zone := rfl
@[simp] theorem State.setSeq_tick (q : Seq) : (s.setSeq q).tick = s.tick := rfl
@[simp] theorem State.setSeq_seq (q : Seq) : (s.setSeq q).seq = q := rfl
@[simp] theorem State.setSeq_time (q : Seq) : (s.setSeq q).time = s.time := rfl
@[simp] theorem State.setSeq_trace (q : Seq) : (s.setSeq q).trace = s.trace := rfl
@[simp] theorem State.setSeq_phaseEt (q : Seq) : (s.setSeq q).phaseEt = s.phaseEt := rfl
@[simp] theorem State.setSeq_script (q : Seq) : (s.setSeq q).script = s.script := rfl
@[simp] theorem State.setSeq_env (q : Seq) : (s.setSeq q).env = s.env := rfl

/-! ### `State.latch` -/

@[simp] theorem State.latch_cfg : (s.latch).cfg = s.cfg := rfl
@[simp] theorem State.latch_db : (s.latch).db = s.db := rfl
@[simp] theorem State.latch_rs : (s.latch).rs = s.rs := rfl
@[simp] theorem State.latch_rw : (s.latch).rw = s.rw := rfl
@[simp] theorem State.latch_e : (s.latch).e = s.e := rfl
@[simp] theorem State.latch_relay : (s.latch).relay = s.relay := rfl
@[simp] theorem State.latch_et : (s.latch).et = s.et := rfl
@[simp] theorem State.latch_curCol : (s.latch).curCol = s.curCol := rfl
@[simp] theorem State.latch_curLine : (s.latch).curLine = s.curLine := rfl
@[simp] theorem State.latch_sample : (s.latch).sample = s.sample := rfl
@[simp] theorem State.latch_zone : (s.latch).zone = s.zone := rfl
@[simp] theorem State.latch_tick : (s.latch).tick = s.tick := rfl
@[simp] theorem State.latch_seq : (s.latch).seq = s.seq := rfl
@[simp] theorem State.latch_time : (s.latch).time = s.time := rfl
@[simp] theorem State.latch_trace : (s.latch).trace = s.trace := rfl
@[simp] theorem State.latch_phaseEt : (s.latch).phaseEt = s.et := rfl
@[simp] theorem State.latch_script : (s.latch).script = s.script := rfl
@[simp] theorem State.latch_env : (s.latch).env = s.env := rfl

/-! ### `State.setSamples` -/

@[simp] theorem State.setSamples_cfg (vs : List Nat) : (s.setSamples vs).cfg = s.cfg := rfl
@[simp] theorem State.setSamples_db (vs : List Nat) : (s.setSamples vs).db = s.db := rfl
@[simp] theorem State.setSamples_rs (vs : List Nat) : (s.setSamples vs).rs = s.rs := rfl
@[simp] theorem State.setSamples_rw (vs : List Nat) : (s.setSamples vs).rw = s.rw := rfl
@[simp] theorem State.setSamples_e (vs : List Nat) : (s.setSamples vs).e = s.e := rfl
@[simp] theorem State.setSamples_relay (vs : List Nat) : (s.setSamples vs).relay = s.relay := rfl
@[simp] theorem State.setSamples_et (vs : List Nat) : (s.setSamples vs).et = s.et := rfl
@[simp] theorem State.setSamples_curCol (vs : List Nat) : (s.setSamples vs).curCol = s.curCol := rfl
@[simp] theorem State.setSamples_curLine (vs : List Nat) : (s.setSamples vs).curLine = s.curLine := rfl
@[simp] theorem State.setSamples_sample (vs : List Nat) : (s.setSamples vs).sample = s.sample := rfl
@[simp] theorem State.setSamples_zone (vs : List Nat) : (s.setSamples vs).zone = s.zone := rfl
@[simp] theorem State.setSamples_tick (vs : List Nat) : (s.setSamples vs).tick = s.tick := rfl
@[simp] theorem State.setSamples_seq (vs : List Nat) : (s.setSamples vs).seq = s.seq := rfl
@[simp] theorem State.setSamples_time (vs : List Nat) : (s.setSamples vs).time = s.time := rfl
@[simp] theorem State.setSamples_trace (vs : List Nat) : (s.setSamples vs).trace = s.trace := rfl
@[simp] theorem State.setSamples_phaseEt (vs : List Nat) : (s.setSamples vs).phaseEt = s.phaseEt := rfl
@[simp] theorem State.setSamples_script (vs : List Nat) : (s.setSamples vs).script = s.script := rfl

/-! ### `State.setScript` -/

@[simp] theorem State.setScript_cfg (ops : List Encoded) : (s.setScript ops).cfg = s.cfg := rfl
@[simp] theorem State.setScript_db (ops : List Encoded) : (s.setScript ops).db = s.db := rfl
@[simp] theorem State.setScript_rs (ops : List Encoded) : (s.setScript ops).rs = s.rs := rfl
@[simp] theorem State.setScript_rw (ops : List Encoded) : (s.setScript ops).rw = s.rw := rfl
@[simp] theorem State.setScript_e (ops : List Encoded) : (s.setScript ops).e = s.e := rfl
@[simp] theorem State.setScript_relay (ops : List Encoded) : (s.setScript ops).relay = s.relay := rfl
@[simp] theorem State.setScript_et (ops : List Encoded) : (s.setScript ops).et = s.et := rfl
@[simp] theorem State.setScript_curCol (ops : List Encoded) : (s.setScript ops).curCol = s.curCol := rfl
@[simp] theorem State.setScript_curLine (ops : List Encoded) : (s.setScript ops).curLine = s.curLine := rfl
@[simp] theorem State.setScript_sample (ops : List Encoded) : (s.setScript ops).sample = s.sample := rfl
@[simp] theorem State.setScript_zone (ops : List Encoded) : (s.setScript ops).zone = s.zone := rfl
@[simp] theorem State.setScript_tick (ops : List Encoded) : (s.setScript ops).tick = s.tick := rfl
@[simp] theorem State.setScript_seq (ops : List Encoded) : (s.setScript ops).seq = s.seq := rfl
@[simp] theorem State.setScript_time (ops : List Encoded) : (s.setScript ops).time = s.time := rfl
@[simp] theorem State.setScript_trace (ops : List Encoded) : (s.setScript ops).trace = s.trace := rfl
@[simp] theorem State.setScript_phaseEt (ops : List Encoded) : (s.setScript ops).phaseEt = s.phaseEt := rfl
@[simp] theorem State.setScript_script (ops : List Encoded) : (s.setScript ops).script = ops := rfl
@[simp] theorem State.setScript_env (ops : List Encoded) : (s.setScript ops).env = s.env := rfl

@[simp] theorem State.elapse_samples (d : Nat) : (s.elapse d).env.samples = s.env.samples := rfl
@[simp] theorem State.elapse_timing (d : Nat) : (s.elapse d).env.timing = s.env.timing := rfl
@[simp] theorem State.elapse_draws (d : Nat) : (s.elapse d).env.draws = s.env.draws + 1 := rfl
@[simp] theorem State.elapse_reset (d : Nat) : (s.elapse d).env.reset = s.env.reset := rfl
@[simp] theorem State.setSamples_samples (vs : List Nat) : (s.setSamples vs).env.samples = vs := rfl
@[simp] theorem State.setSamples_timing (vs : List Nat) : (s.setSamples vs).env.timing = s.env.timing := rfl
@[simp] theorem State.setSamples_draws (vs : List Nat) : (s.setSamples vs).env.draws = s.env.draws := rfl
@[simp] theorem State.setSamples_reset (vs : List Nat) : (s.setSamples vs).env.reset = s.env.reset := rfl

/-! ### `State.setLine` -/

@[simp] theorem State.setLine_cfg (l : Line) (v : Nibble) : (s.setLine l v).cfg = s.cfg := by cases l <;> rfl
theorem State.setLine_db (l : Line) (v : Nibble) : (s.setLine l v).db = if l = .db then v else s.db := by
  cases l <;> rfl
@[simp] theorem State.setLine_db_db (v : Nibble) : (s.setLine .db v).db = v := rfl
@[simp] theorem State.setLine_rs_db (v : Nibble) : (s.setLine .rs v).db = s.db := rfl
@[simp] theorem State.setLine_rw_db (v : Nibble) : (s.setLine .rw v).db = s.db := rfl
@[simp] theorem State.setLine_e_db (v : Nibble) : (s.setLine .e v).db = s.db := rfl
@[simp] theorem State.setLine_relay_db (v : Nibble) : (s.setLine .relay v).db = s.db := rfl
theorem State.setLine_rs (l : Line) (v : Nibble) : (s.setLine l v).rs = if l = .rs then bitLevel v else s.rs := by
  cases l <;> rfl
@[simp] theorem State.setLine_db_rs (v : Nibble) : (s.setLine .db v).rs = s.rs := rfl
@[simp] theorem State.setLine_rs_rs (v : Nibble) : (s.setLine .rs v).rs = bitLevel v := rfl
@[simp] theorem State.setLine_rw_rs (v : Nibble) : (s.setLine .rw v).rs = s.rs := rfl
@[simp] theorem State.setLine_e_rs (v : Nibble) : (s.setLine .e v).rs = s.rs := rfl
@[simp] theorem State.setLine_relay_rs (v : Nibble) : (s.setLine .relay v).rs = s.rs := rfl
theorem State.setLine_rw (l : Line) (v : Nibble) : (s.setLine l v).rw = if l = .rw then bitLevel v else s.rw := by
  cases l <;> rfl
@[simp] theorem State.setLine_db_rw (v : Nibble) : (s.setLine .db v).rw = s.rw := rfl
@[simp] theorem State.setLine_rs_rw (v : Nibble) : (s.setLine .rs v).rw = s.rw := rfl
@[simp] theorem State.setLine_rw_rw (v : Nibble) : (s.setLine .rw v).rw = bitLevel v := rfl
@[simp] theorem State.setLine_e_rw (v : Nibble) : (s.setLine .e v).rw = s.rw := rfl
@[simp] theorem State.setLine_relay_rw (v : Nibble) : (s.setLine .relay v).rw = s.rw := rfl
theorem State.setLine_e (l : Line) (v : Nibble) : (s.setLine l v).e = if l = .e then bitLevel v else s.e := by
  cases l <;> rfl
@[simp] theorem State.setLine_db_e (v : Nibble) : (s.setLine .db v).e = s.e := rfl
@[simp] theorem State.setLine_rs_e (v : Nibble) : (s.setLine .rs v).e = s.e := rfl
@[simp] theorem State.setLine_rw_e (v : Nibble) : (s.setLine .rw v).e = s.e := rfl
@[simp] theorem State.setLine_e_e (v : Nibble) : (s.setLine .e v).e = bitLevel v := rfl
@[simp] theorem State.setLine_relay_e (v : Nibble) : (s.setLine .relay v).e = s.e := rfl
theorem State.setLine_relay (l : Line) (v : Nibble) : (s.setLine l v).relay = if l = .relay then bitLevel v else s.relay := by
  cases l <;> rfl
@[simp] theorem State.setLine_db_relay (v : Nibble) : (s.setLine .db v).relay = s.relay := rfl
@[simp] theorem State.setLine_rs_relay (v : Nibble) : (s.setLine .rs v).relay = s.relay := rfl
@[simp] theorem State.setLine_rw_relay (v : Nibble) : (s.setLine .rw v).relay = s.relay := rfl
@[simp] theorem State.setLine_e_relay (v : Nibble) : (s.setLine .e v).relay = s.relay := rfl
@[simp] theorem State.setLine_relay_relay (v : Nibble) : (s.setLine .relay v).relay = bitLevel v := rfl
@[simp] theorem State.setLine_et (l : Line) (v : Nibble) : (s.setLine l v).et = s.et := by cases l <;> rfl
@[simp] theorem State.setLine_curCol (l : Line) (v : Nibble) : (s.setLine l v).curCol = s.curCol := by cases l <;> rfl
@[simp] theorem State.setLine_curLine (l : Line) (v : Nibble) : (s.setLine l v).curLine = s.curLine := by cases l <;> rfl
@[simp] theorem State.setLine_sample (l : Line) (v : Nibble) : (s.setLine l v).sample = s.sample := by cases l <;> rfl
@[simp] theorem State.setLine_zone (l : Line) (v : Nibble) : (s.setLine l v).zone = s.zone := by cases l <;> rfl
@[simp] theorem State.setLine_tick (l : Line) (v : Nibble) : (s.setLine l v).tick = s.tick := by cases l <;> rfl
@[simp] theorem State.setLine_seq (l : Line) (v : Nibble) : (s.setLine l v).seq = s.seq := by cases l <;> rfl
@[simp] theorem State.setLine_time (l : Line) (v : Nibble) : (s.setLine l v).time = s.time := by cases l <;> rfl
@[simp] theorem State.setLine_trace (l : Line) (v : Nibble) : (s.setLine l v).trace = s.trace := by cases l <;> rfl
@[simp] theorem State.setLine_phaseEt (l : Line) (v : Nibble) : (s.setLine l v).phaseEt = s.phaseEt := by cases l <;> rfl
@[simp] theorem State.setLine_script (l : Line) (v : Nibble) : (s.setLine l v).script = s.script := by cases l <;> rfl
@[simp] theorem State.setLine_env (l : Line) (v : Nibble) : (s.setLine l v).env = s.env := by cases l <;> rfl

end Sys2Proof.Machine
end

