-- ==== Sys2Proof/Laws/Ops.lean ====
section
/-!
SUPPORT. What each shared operation can do: sequencing, the primitives one by one, lists of primitive actions, the dispatch and the
reset.
-/

namespace Sys2Proof.Machine

/-! ## Sequencing -/

@[simp] theorem andThen_next (s : State) (f : State → Result) : andThen (.next s) f = f s := rfl
@[simp] theorem andThen_fault (x : Fault) (f : State → Result) : andThen (.fault x) f = .fault x := rfl
@[simp] theorem andThen_refused (x : Refusal) (f : State → Result) : andThen (.refused x) f = .refused x := rfl

theorem andThen_assoc (r : Result) (f g : State → Result) : andThen (andThen r f) g = andThen r (fun s => andThen (f s) g) := by
  cases r <;> rfl

@[simp] theorem andThen_next_right (r : Result) : andThen r .next = r := by cases r <;> rfl

/-- Two operations in sequence answer a next state exactly when each of them does. -/
theorem andThen_eq_next {r : Result} {f : State → Result} {t : State} :
    andThen r f = .next t ↔ ∃ s, r = .next s ∧ f s = .next t := by
  cases r <;> simp [andThen]

@[simp] theorem runActions_nil (s : State) : runActions [] s = .next s := rfl

@[simp] theorem runActions_cons (a : Action) (as : List Action) (s : State) :
    runActions (a :: as) s = andThen (perform a s) (runActions as) := rfl

theorem runActions_append (as bs : List Action) (s : State) :
    runActions (as ++ bs) s = andThen (runActions as s) (runActions bs) := by
  induction as generalizing s with
  | nil => rfl
  | cons a as ih =>
    simp only [List.cons_append, runActions_cons, andThen_assoc]
    congr 1
    funext u
    exact ih u

@[simp] theorem runExpansion_ok (as : List Action) (s : State) : runExpansion (.ok as) s = runActions as s := rfl
@[simp] theorem runExpansion_error (h : Fault) (s : State) : runExpansion (.error h) s = .fault h := rfl

/-! ## The primitives -/

@[simp] theorem perform_drive (l : Line) (v : Nibble) (s : State) : perform (.drive l v) s = .next (drivePrim l v s) := rfl
@[simp] theorem perform_wait (d : Nat) (s : State) : perform (.wait d) s = .next (waitPrim d s) := rfl
@[simp] theorem perform_note (k : ErrKind) (s : State) : perform (.note k) s = .next (notePrim k s) := rfl
@[simp] theorem perform_setEt (v : Seconds) (s : State) : perform (.setEt v) s = .next (s.setEt v).passTime := rfl
@[simp] theorem perform_setCur (c : Nibble) (l : Bit) (s : State) : perform (.setCur c l) s = .next (s.setCur c l).passTime := rfl
@[simp] theorem perform_setTick (v : Seconds) (s : State) : perform (.setTick v) s = .next (s.setTick v).passTime := rfl

/-- The actions that always answer a next state: all but the two that depend on the environment or on an unwritten register. -/
def Action.total : Action → Bool
  | .sample | .classify => false
  | .drive _ _ | .wait _ | .note _ | .setEt _ | .setCur _ _ | .setTick _ => true

theorem perform_total {a : Action} (h : a.total = true) (s : State) : ∃ t, perform a s = .next t := by
  cases a <;> first | exact ⟨_, rfl⟩ | simp [Action.total] at h

theorem runActions_total {as : List Action} (h : as.all Action.total = true) (s : State) : ∃ t, runActions as s = .next t := by
  induction as generalizing s with
  | nil => exact ⟨s, rfl⟩
  | cons a as ih =>
    simp only [List.all_cons, Bool.and_eq_true] at h
    obtain ⟨u, hu⟩ := perform_total h.1 s
    obtain ⟨t, ht⟩ := ih h.2 u
    exact ⟨t, by simp [hu, ht]⟩

/-- `sample()` answers: a value in range from the script, a free one where there is none, or a refusal of a value out of range. -/
theorem samplePrim_cases (s : State) :
    (s.env.samples = [] ∧ samplePrim s = .next (readSample s.freeSample s)) ∨
    (∃ v vs, s.env.samples = v :: vs ∧ v ≤ sampleMax s.cfg ∧ samplePrim s = .next (readSample v (s.setSamples vs))) ∨
    (∃ v vs, s.env.samples = v :: vs ∧ sampleMax s.cfg < v ∧ samplePrim s = .refused (.sampleOutOfRange v)) := by
  unfold samplePrim
  cases hs : s.env.samples with
  | nil => exact .inl ⟨rfl, rfl⟩
  | cons v vs =>
    by_cases hv : v ≤ sampleMax s.cfg
    · exact .inr (.inl ⟨v, vs, rfl, hv, by simp [hv]⟩)
    · exact .inr (.inr ⟨v, vs, rfl, by omega, by simp [hv]⟩)

theorem State.freeSample_le (s : State) : s.freeSample ≤ sampleMax s.cfg := by
  have : s.freeSample < 2 ^ s.cfg.sampleBits := Nat.mod_lt _ (by positivity)
  unfold sampleMax
  omega

/-- `classify` answers by the sample `SAMPLE` holds, and faults where it holds none. -/
theorem classifyPrim_cases (s : State) :
    (s.sample = none ∧ classifyPrim s = .fault .sampleUnwritten) ∨
    (∃ v, s.sample = some v ∧ classifyPrim s = .next (s.setZone (zoneCode (classify s.cfg v))).passTime) := by
  unfold classifyPrim
  cases hs : s.sample with
  | none => exact .inl ⟨rfl, rfl⟩
  | some v => exact .inr ⟨v, rfl, rfl⟩

/-- WHAT AN ACTION CAN DO, said once: if it answers a next state, it is one of these. -/
theorem perform_next_cases {a : Action} {s t : State} (h : perform a s = .next t) :
    (∃ l v, a = .drive l v ∧ t = drivePrim l v s) ∨ (∃ d, a = .wait d ∧ t = waitPrim d s) ∨
    (∃ k, a = .note k ∧ t = notePrim k s) ∨
    (a = .sample ∧ s.env.samples = [] ∧ t = readSample s.freeSample s) ∨
    (∃ v vs, a = .sample ∧ s.env.samples = v :: vs ∧ v ≤ sampleMax s.cfg ∧ t = readSample v (s.setSamples vs)) ∨
    (∃ v, a = .classify ∧ s.sample = some v ∧ t = (s.setZone (zoneCode (classify s.cfg v))).passTime) ∨
    (∃ v, a = .setEt v ∧ t = (s.setEt v).passTime) ∨ (∃ c l, a = .setCur c l ∧ t = (s.setCur c l).passTime) ∨
    (∃ v, a = .setTick v ∧ t = (s.setTick v).passTime) := by
  cases a with
  | drive l v => cases h; exact .inl ⟨l, v, rfl, rfl⟩
  | wait d => cases h; exact .inr (.inl ⟨d, rfl, rfl⟩)
  | note k => cases h; exact .inr (.inr (.inl ⟨k, rfl, rfl⟩))
  | sample =>
    simp only [perform] at h
    rcases samplePrim_cases s with ⟨h1, hp⟩ | ⟨v, vs, h1, h2, hp⟩ | ⟨v, vs, _, _, hp⟩ <;> rw [hp] at h <;> cases h
    · exact .inr (.inr (.inr (.inl ⟨rfl, h1, rfl⟩)))
    · exact .inr (.inr (.inr (.inr (.inl ⟨v, vs, rfl, h1, h2, rfl⟩))))
  | classify =>
    simp only [perform] at h
    rcases classifyPrim_cases s with ⟨_, hp⟩ | ⟨v, h1, hp⟩ <;> rw [hp] at h <;> cases h
    exact .inr (.inr (.inr (.inr (.inr (.inl ⟨v, rfl, h1, rfl⟩)))))
  | setEt v => cases h; exact .inr (.inr (.inr (.inr (.inr (.inr (.inl ⟨v, rfl, rfl⟩))))))
  | setCur c l => cases h; exact .inr (.inr (.inr (.inr (.inr (.inr (.inr (.inl ⟨c, l, rfl, rfl⟩)))))))
  | setTick v => cases h; exact .inr (.inr (.inr (.inr (.inr (.inr (.inr (.inr ⟨v, rfl, rfl⟩)))))))

theorem SameSurroundings.refl (s : State) : SameSurroundings s s := ⟨rfl, rfl, rfl, rfl⟩

theorem SameSurroundings.trans {s t u : State} (h : SameSurroundings s t) (k : SameSurroundings t u) : SameSurroundings s u :=
  ⟨k.cfg.trans h.cfg, k.script.trans h.script, k.timing.trans h.timing, k.reset.trans h.reset⟩

/-- Everything an action leaves alone, whatever it is: the configuration, the script, the position, the environment's choices. -/
theorem perform_frame {a : Action} {s t : State} (h : perform a s = .next t) :
    SameSurroundings s t ∧ samePosition s t ∧ s.time ≤ t.time := by
  rcases perform_next_cases h with ⟨l, v, rfl, rfl⟩ | ⟨d, rfl, rfl⟩ | ⟨k, rfl, rfl⟩ | ⟨rfl, _, rfl⟩ | ⟨v, vs, rfl, _, _, rfl⟩ |
    ⟨v, rfl, _, rfl⟩ | ⟨v, rfl, rfl⟩ | ⟨c, l, rfl, rfl⟩ | ⟨v, rfl, rfl⟩
  · cases l <;> exact ⟨⟨rfl, rfl, rfl, rfl⟩, ⟨rfl, rfl⟩, Nat.le_add_right _ _⟩
  all_goals exact ⟨⟨rfl, rfl, rfl, rfl⟩, ⟨rfl, rfl⟩, Nat.le_add_right _ _⟩

/-- Everything a list of actions leaves alone, whatever the actions are. -/
theorem runActions_frame {as : List Action} {s t : State} (h : runActions as s = .next t) :
    SameSurroundings s t ∧ samePosition s t ∧ s.time ≤ t.time := by
  induction as generalizing s with
  | nil => cases h; exact ⟨.refl _, ⟨rfl, rfl⟩, le_rfl⟩
  | cons a as ih =>
    obtain ⟨u, hu, hr⟩ := andThen_eq_next.1 h
    obtain ⟨h1, h2, h3⟩ := perform_frame hu
    obtain ⟨k1, k2, k3⟩ := ih hr
    exact ⟨h1.trans k1, ⟨k2.1.trans h2.1, k2.2.trans h2.2⟩, h3.trans k3⟩

/-! ## Registers, one by one -/

/-- Only `setEt` writes `ET`. -/
theorem perform_et {a : Action} {s t : State} (h : perform a s = .next t) (ha : ∀ v, a ≠ .setEt v) : t.et = s.et := by
  rcases perform_next_cases h with ⟨l, v, rfl, rfl⟩ | ⟨d, rfl, rfl⟩ | ⟨k, rfl, rfl⟩ | ⟨rfl, _, rfl⟩ | ⟨v, vs, rfl, _, _, rfl⟩ |
    ⟨v, rfl, _, rfl⟩ | ⟨v, rfl, rfl⟩ | ⟨c, l, rfl, rfl⟩ | ⟨v, rfl, rfl⟩
  · cases l <;> rfl
  case inr.inr.inr.inr.inr.inr.inl => exact absurd rfl (ha v)
  all_goals rfl

/-- Only `setTick` writes `TICK`. -/
theorem perform_tick {a : Action} {s t : State} (h : perform a s = .next t) (ha : ∀ v, a ≠ .setTick v) : t.tick = s.tick := by
  rcases perform_next_cases h with ⟨l, v, rfl, rfl⟩ | ⟨d, rfl, rfl⟩ | ⟨k, rfl, rfl⟩ | ⟨rfl, _, rfl⟩ | ⟨v, vs, rfl, _, _, rfl⟩ |
    ⟨v, rfl, _, rfl⟩ | ⟨v, rfl, rfl⟩ | ⟨c, l, rfl, rfl⟩ | ⟨v, rfl, rfl⟩
  · cases l <;> rfl
  case inr.inr.inr.inr.inr.inr.inr.inr => exact absurd rfl (ha v)
  all_goals rfl

/-- Only `setCur` writes `CUR`. -/
theorem perform_cur {a : Action} {s t : State} (h : perform a s = .next t) (ha : ∀ c l, a ≠ .setCur c l) : sameCursor s t := by
  rcases perform_next_cases h with ⟨l, v, rfl, rfl⟩ | ⟨d, rfl, rfl⟩ | ⟨k, rfl, rfl⟩ | ⟨rfl, _, rfl⟩ | ⟨v, vs, rfl, _, _, rfl⟩ |
    ⟨v, rfl, _, rfl⟩ | ⟨v, rfl, rfl⟩ | ⟨c, l, rfl, rfl⟩ | ⟨v, rfl, rfl⟩
  · cases l <;> exact ⟨rfl, rfl⟩
  case inr.inr.inr.inr.inr.inr.inr.inl => exact absurd rfl (ha c l)
  all_goals exact ⟨rfl, rfl⟩

/-- Only `sample` and `classify` write the quantizer's registers and use up the samples to come. -/
theorem perform_quantizer {a : Action} {s t : State} (h : perform a s = .next t) (ha : a.total = true) : sameQuantizer s t := by
  rcases perform_next_cases h with ⟨l, v, rfl, rfl⟩ | ⟨d, rfl, rfl⟩ | ⟨k, rfl, rfl⟩ | ⟨rfl, _, rfl⟩ | ⟨v, vs, rfl, _, _, rfl⟩ |
    ⟨v, rfl, _, rfl⟩ | ⟨v, rfl, rfl⟩ | ⟨c, l, rfl, rfl⟩ | ⟨v, rfl, rfl⟩
  · cases l <;> exact ⟨rfl, rfl, rfl⟩
  all_goals first | exact ⟨rfl, rfl, rfl⟩ | exact absurd ha (by decide)

/-- Only a drive of a line changes its level, to the level driven. -/
theorem perform_lineLevel {a : Action} {s t : State} (h : perform a s = .next t) (l : Line)
    (ha : ∀ v, a = .drive l v → levelAdmitted l v = true) :
    t.lineLevel l = levelAfter l (s.lineLevel l) [a] := by
  rcases perform_next_cases h with ⟨l', v, rfl, rfl⟩ | ⟨d, rfl, rfl⟩ | ⟨k, rfl, rfl⟩ | ⟨rfl, _, rfl⟩ | ⟨v, vs, rfl, _, _, rfl⟩ |
    ⟨v, rfl, _, rfl⟩ | ⟨v, rfl, rfl⟩ | ⟨c, l', rfl, rfl⟩ | ⟨v, rfl, rfl⟩
  · by_cases hl : l' = l
    · subst hl
      have hv := ha v rfl
      cases l' <;> simp [levelAdmitted] at hv <;>
        first
          | rfl
          | (rcases hv with rfl | rfl <;> rfl)
    · cases l' <;> cases l <;> first | rfl | exact absurd rfl hl
  all_goals cases l <;> rfl

/-- An action other than `sample` appends its signals, stamped with the time at which it is performed. -/
theorem perform_appends {a : Action} {s t : State} (h : perform a s = .next t) (ha : a ≠ .sample) :
    t.trace.map Event.signal = s.trace.map Event.signal ++ a.signals ∧ appends s t a.signals := by
  rcases perform_next_cases h with ⟨l, v, rfl, rfl⟩ | ⟨d, rfl, rfl⟩ | ⟨k, rfl, rfl⟩ | ⟨rfl, _, rfl⟩ | ⟨v, vs, rfl, _, _, rfl⟩ |
    ⟨v, rfl, _, rfl⟩ | ⟨v, rfl, rfl⟩ | ⟨c, l, rfl, rfl⟩ | ⟨v, rfl, rfl⟩
  · refine ⟨?_, [.set l v s.time], ?_, rfl, ?_⟩
    · cases l <;> simp [drivePrim, State.passTime, Action.signals, Event.signal]
    · cases l <;> rfl
    · cases l <;> simp [drivePrim, State.passTime, Event.time]
  · exact ⟨by simp [waitPrim, Action.signals, Event.signal], [.wait d s.time], rfl, rfl, by simp [waitPrim, Event.time]⟩
  · exact ⟨by simp [notePrim, State.passTime, Action.signals, Event.signal], [.err k s.time], rfl, rfl,
      by simp [notePrim, State.passTime, Event.time]⟩
  · exact absurd rfl ha
  · exact absurd rfl ha
  all_goals exact ⟨by simp [State.passTime, Action.signals], [], (List.append_nil _).symm, rfl, by simp⟩

/-! ## Lists of actions -/

theorem appends_refl (s : State) : appends s s [] := ⟨[], by simp⟩

theorem appends_trans {s t u : State} {xs ys : List Signal} (hst : s.time ≤ t.time) (htu : t.time ≤ u.time)
    (h : appends s t xs) (k : appends t u ys) : appends s u (xs ++ ys) := by
  obtain ⟨es, h1, h2, h3⟩ := h
  obtain ⟨fs, k1, k2, k3⟩ := k
  refine ⟨es ++ fs, by rw [k1, h1, List.append_assoc], by rw [List.map_append, h2, k2], ?_⟩
  intro ev hev
  rcases List.mem_append.1 hev with he | he
  · exact ⟨(h3 ev he).1, (h3 ev he).2.trans htu⟩
  · exact ⟨hst.trans (k3 ev he).1, (k3 ev he).2⟩

theorem levelAfter_cons (l : Line) (v : Nibble) (a : Action) (as : List Action) :
    levelAfter l v (a :: as) = levelAfter l (levelAfter l v [a]) as := rfl

theorem levelAfter_append (l : Line) (v : Nibble) (as bs : List Action) :
    levelAfter l v (as ++ bs) = levelAfter l (levelAfter l v as) bs := List.foldl_append

/-- The events of a list of actions without `sample`, in order. -/
theorem runActions_appends {as : List Action} {s t : State} (h : runActions as s = .next t) (ha : ∀ a ∈ as, a ≠ .sample) :
    appends s t (as.flatMap Action.signals) := by
  induction as generalizing s with
  | nil => cases h; exact appends_refl _
  | cons a as ih =>
    obtain ⟨u, hu, hr⟩ := andThen_eq_next.1 h
    rw [List.flatMap_cons]
    exact appends_trans (perform_frame hu).2.2 (runActions_frame hr).2.2 (perform_appends hu (ha a (by simp))).2
      (ih hr (fun b hb => ha b (by simp [hb])))

/-- The level a list of actions leaves a line at. -/
theorem runActions_lineLevel {as : List Action} {s t : State} (h : runActions as s = .next t) (l : Line)
    (ha : ∀ a ∈ as, ∀ v, a = .drive l v → levelAdmitted l v = true) :
    t.lineLevel l = levelAfter l (s.lineLevel l) as := by
  induction as generalizing s with
  | nil => cases h; rfl
  | cons a as ih =>
    obtain ⟨u, hu, hr⟩ := andThen_eq_next.1 h
    rw [levelAfter_cons, ih hr (fun b hb => ha b (by simp [hb])), perform_lineLevel hu l (ha a (by simp))]

/-! ## The dispatch and the reset -/

/-- The dispatch enters the handler of the zone whose code `ZONE` holds, and stops otherwise. -/
theorem dispatch_next_iff {s t : State} : dispatch s = .next t ↔ ∃ c z, s.zone = some c ∧ zoneOfCode c = some z ∧ t = enterHandler z s := by
  unfold dispatch
  cases hz : s.zone with
  | none => simp
  | some c =>
    cases hc : zoneOfCode c with
    | none => simp [hc]
    | some z => simp [hc, eq_comm]

@[simp] theorem zoneOfCode_zoneCode (z : Zone) : zoneOfCode (zoneCode z) = some z := by cases z <;> rfl

theorem takeReset_eq (s : State) : takeReset s = State.atReset s.cfg s.env.resetTaken s.script := rfl

end Sys2Proof.Machine
end

