-- ==== Sys2Proof/Laws/Abandon.lean ====
section
/-!
SUPPORT. What an operation abandoned by a reset can have done: nothing at its start, all of it at its end, and in between nothing
that its actions would not do.
-/

namespace Sys2Proof.Machine

/-- An action under way is a wait that has begun, or it has done nothing. -/
theorem beginAction_cases (into : Nat) (a : Option Action) (s : State) :
    (∃ d, a = some (.wait d) ∧
      beginAction into a s = (s.record (.wait d s.time)).elapse (min into (d + s.waitExcess))) ∨
    beginAction into a s = s := by
  cases a with
  | none => exact .inr rfl
  | some a => cases a <;> first | exact .inl ⟨_, rfl, rfl⟩ | exact .inr rfl

/-- What an action under way leaves alone. -/
theorem beginAction_frame (into : Nat) (a : Option Action) (s : State) :
    SameSurroundings s (beginAction into a s) ∧ samePosition s (beginAction into a s) ∧ s.time ≤ (beginAction into a s).time := by
  rcases beginAction_cases into a s with ⟨d, _, h⟩ | h <;> rw [h]
  · exact ⟨⟨rfl, rfl, rfl, rfl⟩, ⟨rfl, rfl⟩, Nat.le_add_right _ _⟩
  · exact ⟨.refl s, ⟨rfl, rfl⟩, le_rfl⟩

@[simp] theorem beginAction_none (into : Nat) (s : State) : beginAction into none s = s := rfl

/-- Past the end of a list nothing is cut off. -/
theorem partOfActions_whole {p : ResetPoint} {as : List Action} (h : as.length ≤ p.after) (s : State) :
    partOfActions p as s = runActions as s := by
  simp [partOfActions, List.take_of_length_le h, List.getElem?_eq_none h]

theorem partOfExpansion_whole {p : ResetPoint} {x : Expansion} (h : ∀ as, x = .ok as → as.length ≤ p.after) (hp : p.after ≠ 0)
    (s : State) : partOfExpansion p x s = runExpansion x s := by
  cases x with
  | ok as => exact partOfActions_whole (h as rfl) s
  | error e => exact if_neg hp

theorem allOrNothing_whole {p : ResetPoint} (h : p.after ≠ 0) (i : Instr) (s : State) : allOrNothing p i s = exec i s := if_neg h

/-- What a list of actions leaves alone up to any point of it. -/
theorem partOfActions_frame {p : ResetPoint} {as : List Action} {s t : State} (h : partOfActions p as s = .next t) :
    SameSurroundings s t ∧ samePosition s t ∧ s.time ≤ t.time := by
  obtain ⟨u, hu, ht⟩ := andThen_eq_next.1 h
  cases ht
  obtain ⟨h1, h2, h3⟩ := runActions_frame hu
  obtain ⟨k1, k2, k3⟩ := beginAction_frame p.into as[p.after]? u
  exact ⟨h1.trans k1, ⟨k2.1.trans h2.1, k2.2.trans h2.2⟩, h3.trans k3⟩

/-- A reset at the very start of a step finds the state as it was. -/
@[simp] theorem abandoned_start (s : State) : abandoned ⟨0, 0⟩ s = .next s := if_pos ⟨rfl, rfl⟩

end Sys2Proof.Machine
end

