-- ==== Sys2Proof/Laws/Exec.lean ====
section
/-!
SUPPORT. The meaning of each instruction as one equation, to be cited instead of unfolding `exec`; and the sequencing of
instructions.
-/

namespace Sys2Proof.Machine

variable (s : State)

theorem exec_busWord (rs : RegSel) (n : Nibble) : exec (.busWord rs n) s = runActions (sendNibbleActions s.cfg rs n) s := rfl
theorem exec_bytePair (rs : RegSel) (v : Byte) : exec (.bytePair rs v) s = runActions (sendByteActions s.cfg rs v) s := rfl
theorem exec_cmdClear : exec .cmdClear s = runActions (sendByteActions s.cfg .command 0b00000001) s := rfl
theorem exec_cmdReset (x : Bit) : exec (.cmdReset x) s = runActions (sendByteActions s.cfg .command (cmdResetByte x)) s := rfl
theorem exec_cmdEntryMode (i sh : Bit) :
    exec (.cmdEntryMode i sh) s = runActions (sendByteActions s.cfg .command (cmdEntryModeByte i sh)) s := rfl
theorem exec_cmdDisplayCtrl (d c b : Bit) :
    exec (.cmdDisplayCtrl d c b) s = runActions (sendByteActions s.cfg .command (cmdDisplayCtrlByte d c b)) s := rfl
theorem exec_cmdFunctionSet (l n f : Bit) :
    exec (.cmdFunctionSet l n f) s = runActions (sendByteActions s.cfg .command (cmdFunctionSetByte l n f)) s := rfl
theorem exec_cmdSetDdram (a : BitVec 7) :
    exec (.cmdSetDdram a) s = runActions (sendByteActions s.cfg .command (cmdSetDdramByte a)) s := rfl
theorem exec_data (c : Byte) : exec (.data c) s = runActions (sendByteActions s.cfg .data c) s := rfl
theorem exec_zoneIdle : exec .zoneIdle s = dispatch (s.setZone (zoneCode .idle)) := rfl
theorem exec_zoneIncrement : exec .zoneIncrement s = dispatch (s.setZone (zoneCode .increment)) := rfl
theorem exec_zoneDecrement : exec .zoneDecrement s = dispatch (s.setZone (zoneCode .decrement)) := rfl
theorem exec_zoneReset : exec .zoneReset s = dispatch (s.setZone (zoneCode .reset)) := rfl
theorem exec_zoneExpose : exec .zoneExpose s = dispatch (s.setZone (zoneCode .expose)) := rfl
theorem exec_zoneReserved (c : ZoneCode) : exec (.zoneReserved c) s = .fault (.reservedZone c) := rfl
theorem exec_drive (l : Line) (v : Nibble) : exec (.drive l v) s = execDrive l v s := rfl
theorem exec_wait (d : Nat) : exec (.wait d) s = perform (.wait d) s := rfl
theorem exec_sample : exec .sample s = samplePrim s := rfl
theorem exec_note (k : ErrKind) : exec (.note k) s = perform (.note k) s := rfl
theorem exec_sendNib (rs : RegSel) (n : Nibble) : exec (.sendNib rs n) s = runActions (sendNibbleActions s.cfg rs n) s := rfl
theorem exec_sendByte (rs : RegSel) (v : Byte) : exec (.sendByte rs v) s = runActions (sendByteActions s.cfg rs v) s := rfl
theorem exec_putCmd (v : Byte) : exec (.putCmd v) s = runActions (sendByteActions s.cfg .command v) s := rfl
theorem exec_putChar (ch : Byte) : exec (.putChar ch) s = runActions (sendByteActions s.cfg .data ch) s := rfl
theorem exec_putStr (str : List Byte) : exec (.putStr str) s = runActions (putStringActions s.cfg str) s := rfl
theorem exec_gotoPos (c l : Nat) : exec (.gotoPos c l) s = runActions (gotoActions s.cfg c l) s := rfl
theorem exec_init : exec .init s = runActions (initActions s.cfg) s := rfl
theorem exec_writeAt (c l : Nat) (str : List Byte) : exec (.writeAt c l str) s = runActions (writeAtActions s.cfg c l str) s := rfl
theorem exec_render (l : Nat) (str : List Byte) (h : str.length ≤ 16) :
    exec (.render l str) s = runActions (writeAtActions s.cfg 0 l (padLine s.cfg str)) s := if_pos h
theorem exec_render_long (l : Nat) (str : List Byte) (h : 16 < str.length) :
    exec (.render l str) s = .refused (.renderTooLong str.length) := if_neg (by omega)
theorem exec_classify : exec .classify s = classifyPrim s := rfl
theorem exec_poll : exec .poll s = execPoll s := rfl
theorem exec_hInc : exec .hInc s = runExpansion (incrementActions s.cfg s.et) s := rfl
theorem exec_hDec : exec .hDec s = runExpansion (decrementActions s.cfg s.et) s := rfl
theorem exec_hReset : exec .hReset s = runActions (resetActions s.cfg) s := rfl
theorem exec_hExpose : exec .hExpose s = runExpansion (exposeActions s.cfg s.et) s := rfl
theorem exec_hIdle : exec .hIdle s = perform (.drive .relay 0) s := rfl
theorem exec_banner : exec .banner s = runActions (bannerActions s.cfg) s := rfl
theorem exec_boot : exec .boot s = andThen (runActions (bootActions s.cfg) s.latch) (fun t => .next (t.setSeq (.poll 0))) := rfl

/-- The handler of a zone as an instruction is the zone's list of actions. -/
theorem exec_handlerOf (z : Zone) : exec (handlerOf z) s = runExpansion (handlerActions s.cfg s.et z) s := by cases z <;> rfl

@[simp] theorem execAll_nil : execAll [] s = .next s := rfl
@[simp] theorem execAll_cons (i : Instr) (is : List Instr) : execAll (i :: is) s = andThen (exec i s) (execAll is) := rfl

theorem execAll_append (is js : List Instr) : execAll (is ++ js) s = andThen (execAll is s) (execAll js) := by
  induction is generalizing s with
  | nil => rfl
  | cons i is ih =>
    simp only [List.cons_append, execAll_cons, andThen_assoc]
    congr 1
    funext u
    exact ih u

/-- To compare two continuations it is enough to compare them where the first operation answers a next state. -/
theorem andThen_congr {r : Result} {f g : State → Result} (h : ∀ u, r = .next u → f u = g u) : andThen r f = andThen r g := by
  cases r with
  | next u => exact h u rfl
  | fault x => rfl
  | refused x => rfl

/-- A list of actions cut in two, the second part written with the configuration the first part leaves: it is the same one. -/
theorem runActions_split {as : List Action} {f : Config → List Action} :
    runActions (as ++ f s.cfg) s = andThen (runActions as s) (fun u => runActions (f u.cfg) u) := by
  rw [runActions_append]
  exact andThen_congr fun u hu => by rw [(runActions_frame hu).1.cfg]

end Sys2Proof.Machine
end

