-- ==== Sys2Proof/Laws/PerInstr.lean ====
section
/-!
SUPPORT. What is said of every instruction as syntax: the encoder puts it into the format that spec/opcode_table.json gives its row.
-/

namespace Sys2Proof.Laws.TableFormat

/-- The format of an encoded form. -/
def formatOf : Encoded → Format
  | .busWord _   => .busWord
  | .bytePair _  => .bytePair
  | .cmdByte _   => .cmdByte
  | .dataByte _  => .dataByte
  | .zoneCode _  => .zoneCode
  | .operation _ => .operation

/-- The column "format" of spec/opcode_table.json. -/
def tableFormat : Instr → Format
  | .busWord _ _ => .busWord
  | .bytePair _ _ => .bytePair
  | .cmdClear | .cmdReset _ | .cmdEntryMode _ _ | .cmdDisplayCtrl _ _ _ | .cmdFunctionSet _ _ _ | .cmdSetDdram _ => .cmdByte
  | .data _ => .dataByte
  | .zoneIdle | .zoneIncrement | .zoneDecrement | .zoneReset | .zoneExpose | .zoneReserved _ => .zoneCode
  | .drive _ _ | .wait _ | .sample | .note _ | .sendNib _ _ | .sendByte _ _ | .putCmd _ | .putChar _ | .putStr _
  | .gotoPos _ _ | .init | .writeAt _ _ _ | .render _ _ | .classify | .poll | .hInc | .hDec | .hReset | .hExpose | .hIdle
  | .banner | .boot => .operation

/-- The encoder uses the format of the instruction's row. -/
def Statement (i : Instr) : Prop := formatOf (encode i) = tableFormat i

theorem busWord (rs : RegSel) (n : Nibble) : Statement (.busWord rs n) := rfl
theorem bytePair (rs : RegSel) (v : Byte) : Statement (.bytePair rs v) := rfl
theorem cmdClear : Statement (.cmdClear) := rfl
theorem cmdReset (x : Bit) : Statement (.cmdReset x) := rfl
theorem cmdEntryMode (i sh : Bit) : Statement (.cmdEntryMode i sh) := rfl
theorem cmdDisplayCtrl (d c b : Bit) : Statement (.cmdDisplayCtrl d c b) := rfl
theorem cmdFunctionSet (l n f : Bit) : Statement (.cmdFunctionSet l n f) := rfl
theorem cmdSetDdram (a : BitVec 7) : Statement (.cmdSetDdram a) := rfl
theorem data (c : Byte) : Statement (.data c) := rfl
theorem zoneIdle : Statement (.zoneIdle) := rfl
theorem zoneIncrement : Statement (.zoneIncrement) := rfl
theorem zoneDecrement : Statement (.zoneDecrement) := rfl
theorem zoneReset : Statement (.zoneReset) := rfl
theorem zoneExpose : Statement (.zoneExpose) := rfl
theorem zoneReserved (code : ZoneCode) : Statement (.zoneReserved code) := rfl
theorem drive (l : Line) (v : Nibble) : Statement (.drive l v) := rfl
theorem wait (d : Nat) : Statement (.wait d) := rfl
theorem sample : Statement (.sample) := rfl
theorem note (k : ErrKind) : Statement (.note k) := rfl
theorem sendNib (rs : RegSel) (n : Nibble) : Statement (.sendNib rs n) := rfl
theorem sendByte (rs : RegSel) (v : Byte) : Statement (.sendByte rs v) := rfl
theorem putCmd (v : Byte) : Statement (.putCmd v) := rfl
theorem putChar (ch : Byte) : Statement (.putChar ch) := rfl
theorem putStr (str : List Byte) : Statement (.putStr str) := rfl
theorem gotoPos (c l : Nat) : Statement (.gotoPos c l) := rfl
theorem init : Statement (.init) := rfl
theorem writeAt (c l : Nat) (str : List Byte) : Statement (.writeAt c l str) := rfl
theorem render (l : Nat) (str : List Byte) : Statement (.render l str) := rfl
theorem classify : Statement (.classify) := rfl
theorem poll : Statement (.poll) := rfl
theorem hInc : Statement (.hInc) := rfl
theorem hDec : Statement (.hDec) := rfl
theorem hReset : Statement (.hReset) := rfl
theorem hExpose : Statement (.hExpose) := rfl
theorem hIdle : Statement (.hIdle) := rfl
theorem banner : Statement (.banner) := rfl
theorem boot : Statement (.boot) := rfl

end Sys2Proof.Laws.TableFormat
end

