-- ==== Sys2Proof/Laws/Transport.lean ====
section
/-!
SUPPORT. What a list of actions of the display driver takes and leaves alone, and what one nibble and one byte do on the bus: the
lemmas that every operation of the driver is built from.
-/

namespace Sys2Proof.Machine

/-! ## Time -/

/-- The nominal length of an action: a wait's length, nothing for the others (R85, R86). -/
def Action.waits : Action → Nat
  | .wait d => d
  | .drive _ _ | .sample | .note _ | .classify | .setEt _ | .setCur _ _ | .setTick _ => 0

theorem takes_refl (s : State) : takes s s 0 := ⟨le_rfl, fun _ => rfl⟩

theorem takes_trans {s t u : State} {x y : Nat} (hd : t.env.timing = s.env.timing) (h : takes s t x) (k : takes t u y) :
    takes s u (x + y) := by
  obtain ⟨h1, h2⟩ := h
  obtain ⟨k1, k2⟩ := k
  refine ⟨by omega, fun hs => ?_⟩
  have a := h2 hs
  have b := k2 (by unfold deterministic at *; rw [hd, hs])
  omega

theorem passTime_takes (s t : State) (h : s.time = t.time) (ht : t.env.timing = s.env.timing) : takes s t.passTime 0 := by
  refine ⟨by simp [State.passTime, h], fun hs => ?_⟩
  unfold deterministic at hs
  simp [State.passTime, State.actionDuration, ht, hs, h]

/-- An action lasts at least its nominal length, and exactly that in deterministic timing. -/
theorem perform_takes {a : Action} {s t : State} (h : perform a s = .next t) : takes s t a.waits := by
  rcases perform_next_cases h with ⟨l, v, rfl, rfl⟩ | ⟨d, rfl, rfl⟩ | ⟨k, rfl, rfl⟩ | ⟨rfl, _, rfl⟩ | ⟨v, vs, rfl, _, _, rfl⟩ |
    ⟨v, rfl, _, rfl⟩ | ⟨v, rfl, rfl⟩ | ⟨c, l, rfl, rfl⟩ | ⟨v, rfl, rfl⟩
  · exact passTime_takes _ _ (by cases l <;> rfl) (by cases l <;> rfl)
  · refine ⟨by simp [waitPrim, Action.waits], fun hs => ?_⟩
    unfold deterministic at hs
    simp [waitPrim, Action.waits, State.waitExcess, hs]
    unfold boundedBy
    split <;> simp
  all_goals exact passTime_takes _ _ rfl rfl

/-- A list of actions lasts at least the sum of its waits, and exactly that in deterministic timing. -/
theorem runActions_takes {as : List Action} {s t : State} (h : runActions as s = .next t) :
    takes s t (as.map Action.waits).sum := by
  induction as generalizing s with
  | nil => cases h; exact takes_refl _
  | cons a as ih =>
    obtain ⟨u, hu, hr⟩ := andThen_eq_next.1 h
    rw [List.map_cons, List.sum_cons]
    exact takes_trans (perform_frame hu).1.timing (perform_takes hu) (ih hr)

/-! ## What transfers to the display leave alone -/

/-- The actions of the display driver: drives of the bus, waits, notes and the shadow cursor. -/
def Action.displayOnly : Action → Bool
  | .drive l _ => decide (l ≠ .relay)
  | .wait _ | .note _ | .setCur _ _ => true
  | .sample | .classify | .setEt _ | .setTick _ => false

theorem SameBeyondDisplay.refl (s : State) : SameBeyondDisplay s s := ⟨.refl s, ⟨rfl, rfl⟩, ⟨rfl, rfl, rfl⟩, rfl, rfl, rfl⟩

theorem SameBeyondDisplay.trans {s t u : State} (h : SameBeyondDisplay s t) (k : SameBeyondDisplay t u) : SameBeyondDisplay s u :=
  ⟨h.surroundings.trans k.surroundings, ⟨k.position.1.trans h.position.1, k.position.2.trans h.position.2⟩,
   ⟨k.quantizer.1.trans h.quantizer.1, k.quantizer.2.1.trans h.quantizer.2.1, k.quantizer.2.2.trans h.quantizer.2.2⟩,
   k.relay.trans h.relay, k.et.trans h.et, k.tick.trans h.tick⟩

theorem perform_displayOnly {a : Action} {s t : State} (ha : a.displayOnly = true) (h : perform a s = .next t) :
    SameBeyondDisplay s t := by
  have f := perform_frame h
  refine ⟨f.1, f.2.1, perform_quantizer h ?_, ?_, perform_et h ?_, perform_tick h ?_⟩
  · cases a <;> simp_all [Action.displayOnly, Action.total]
  · rcases perform_next_cases h with ⟨l, v, rfl, rfl⟩ | ⟨d, rfl, rfl⟩ | ⟨k, rfl, rfl⟩ | ⟨rfl, _, rfl⟩ | ⟨v, vs, rfl, _, _, rfl⟩ |
      ⟨v, rfl, _, rfl⟩ | ⟨v, rfl, rfl⟩ | ⟨c, l, rfl, rfl⟩ | ⟨v, rfl, rfl⟩
    · cases l <;> first | rfl | simp [Action.displayOnly] at ha
    all_goals rfl
  · intro v hv; subst hv; simp [Action.displayOnly] at ha
  · intro v hv; subst hv; simp [Action.displayOnly] at ha

theorem runActions_displayOnly {as : List Action} {s t : State} (ha : as.all Action.displayOnly = true)
    (h : runActions as s = .next t) : SameBeyondDisplay s t := by
  induction as generalizing s with
  | nil => cases h; exact .refl _
  | cons a as ih =>
    simp only [List.all_cons, Bool.and_eq_true] at ha
    obtain ⟨u, hu, hr⟩ := andThen_eq_next.1 h
    exact (perform_displayOnly ha.1 hu).trans (ih ha.2 hr)

theorem sameCursor.refl (s : State) : sameCursor s s := ⟨rfl, rfl⟩

theorem sameCursor.trans {s t u : State} (h : sameCursor s t) (k : sameCursor t u) : sameCursor s u :=
  ⟨k.1.trans h.1, k.2.trans h.2⟩

theorem runActions_cur {as : List Action} {s t : State} (ha : ∀ a ∈ as, ∀ c l, a ≠ .setCur c l)
    (h : runActions as s = .next t) : sameCursor s t := by
  induction as generalizing s with
  | nil => cases h; exact .refl _
  | cons a as ih =>
    obtain ⟨u, hu, hr⟩ := andThen_eq_next.1 h
    exact (perform_cur hu (ha a (by simp))).trans (ih (fun b hb => ha b (by simp [hb])) hr)

/-! ## One nibble and one byte -/

variable (cfg : Config) (rs : RegSel)

@[simp] theorem sendNibble_total (n : Nibble) : (sendNibbleActions cfg rs n).all Action.total = true := rfl
@[simp] theorem sendByte_total (v : Byte) : (sendByteActions cfg rs v).all Action.total = true := rfl
@[simp] theorem sendNibble_displayOnly (n : Nibble) : (sendNibbleActions cfg rs n).all Action.displayOnly = true := rfl
@[simp] theorem sendByte_displayOnly (v : Byte) : (sendByteActions cfg rs v).all Action.displayOnly = true := rfl
@[simp] theorem sendNibble_signals (n : Nibble) : (sendNibbleActions cfg rs n).flatMap Action.signals = nibbleSignals cfg rs n := rfl
@[simp] theorem sendByte_signals (v : Byte) : (sendByteActions cfg rs v).flatMap Action.signals = byteSignals cfg rs v := rfl

@[simp] theorem sendNibble_waits (n : Nibble) : ((sendNibbleActions cfg rs n).map Action.waits).sum = nibbleTime cfg := by
  simp [sendNibbleActions, Action.waits, nibbleTime]
  omega

@[simp] theorem sendByte_waits (v : Byte) : ((sendByteActions cfg rs v).map Action.waits).sum = byteTime cfg := by
  simp [sendByteActions, byteTime, sendNibble_waits, Action.waits]
  omega

theorem sendNibble_noCur (n : Nibble) : ∀ a ∈ sendNibbleActions cfg rs n, ∀ c l, a ≠ .setCur c l := by
  simp [sendNibbleActions]

theorem sendByte_noCur (v : Byte) : ∀ a ∈ sendByteActions cfg rs v, ∀ c l, a ≠ .setCur c l := by
  simp [sendByteActions, sendNibbleActions]

/-- A drive and a wait, each as the one event it appends and the time it takes at least. -/
theorem drive_step (l : Line) (v : Nibble) (s : State) :
    ∃ u, perform (.drive l v) s = .next u ∧ u.trace = s.trace ++ [.set l v s.time] ∧ s.time ≤ u.time :=
  ⟨_, rfl, by cases l <;> rfl, by simp [drivePrim, State.passTime]⟩

theorem wait_step (d : Nat) (s : State) :
    ∃ u, perform (.wait d) s = .next u ∧ u.trace = s.trace ++ [.wait d s.time] ∧ s.time + d ≤ u.time :=
  ⟨_, rfl, rfl, by simp [waitPrim]⟩

variable {cfg rs}

/-- A nibble leaves its levels on the lines, and `E` at 0. -/
theorem sendNibble_bus {n : Nibble} {s t : State} (h : runActions (sendNibbleActions cfg rs n) s = .next t) :
    t.rs = rsBit rs ∧ t.rw = 0 ∧ t.db = n ∧ t.e = 0 := by
  have adm : ∀ l, ∀ a ∈ sendNibbleActions cfg rs n, ∀ v, a = .drive l v → levelAdmitted l v = true := by
    intro l a ha v hv
    simp only [sendNibbleActions, List.mem_cons, List.not_mem_nil, or_false] at ha
    rcases ha with rfl | rfl | rfl | rfl | rfl | rfl | rfl | rfl <;> cases hv <;> cases rs <;> rfl
  have k := fun l => runActions_lineLevel h l (adm l)
  have inj : ∀ b c : Bit, levelOfBit b = levelOfBit c → b = c := by decide
  exact ⟨inj _ _ (k .rs), inj _ 0 (k .rw), k .db, inj _ 0 (k .e)⟩

/-- A byte leaves its low nibble on the lines, and `E` at 0. -/
theorem sendByte_bus {v : Byte} {s t : State} (h : runActions (sendByteActions cfg rs v) s = .next t) : busAfterByte rs v t := by
  rw [sendByteActions, runActions_cons] at h
  obtain ⟨u, _, h⟩ := andThen_eq_next.1 h
  rw [runActions_append] at h
  obtain ⟨w, _, h⟩ := andThen_eq_next.1 h
  exact sendNibble_bus h

/-- The events of a list of driver actions, its waits, and what it leaves alone. -/
theorem runActions_display {as : List Action} {s t : State} (ht : as.all Action.total = true)
    (hd : as.all Action.displayOnly = true) (h : runActions as s = .next t) :
    appends s t (as.flatMap Action.signals) ∧ takes s t (as.map Action.waits).sum ∧ SameBeyondDisplay s t :=
  ⟨runActions_appends h fun a hm he => by subst he; have := List.all_eq_true.1 ht _ hm; simp [Action.total] at this,
    runActions_takes h, runActions_displayOnly hd h⟩

end Sys2Proof.Machine
end

