-- ==== Sys2Proof/Tests/Slice0.lean ====
section
/-!
SUPPORT. Tests of the model against spec/95_test_vectors.md and the encodings of spec/30_encoding.md, and the witnesses that the
hypotheses of the statements can be met. Expected results are the spec's own vectors, named in each comment.
-/

namespace Sys2Proof.Tests

open Sys2Proof.Machine

/-! ## Helpers -/

/-- A line of the notation. -/
def line (text : String) : Encoded := .operation (codes text.toList)

/-- A text as codes. -/
def text (t : String) : List Byte := codes t.toList

/-- The state after reset in deterministic timing, with samples to come. -/
def start (samples : List Nat) : State := State.atReset Config.default { Env.free with timing := .fixed 0, samples := samples } []

/-- The state after boot: `POLL(0)` (spec/95, conventions); the time is left at 0. -/
def ready (samples : List Nat) : State := (start samples).setSeq (.poll 0)

/-- The platform asks for a reset at a point of the next step. -/
def askReset (p : ResetPoint) (s : State) : State := { s with env := { s.env with reset := some p } }

/-- A question about the next state. -/
def ask {α : Type} (r : Host.Outcome State Fault Refusal) (f : State → α) : Option α :=
  match r with
  | .next t => some (f t)
  | .fault _ | .refused _ => none

/-- The outcome is a refusal for this reason. -/
def refusedFor (r : Host.Outcome State Fault Refusal) (x : Refusal) : Bool :=
  match r with
  | .refused y => decide (y = x)
  | .next _ | .fault _ => false

/-- The outcome is a fault for this reason. -/
def faultsWith (r : Host.Outcome State Fault Refusal) (x : Fault) : Bool :=
  match r with
  | .fault y => decide (y = x)
  | .next _ | .refused _ => false

/-! ## Well-formedness: one ill-formed term for each check -/

theorem test_wf_drive_level : (Instr.drive .e 2).wf = false := by decide
theorem test_wf_drive_read : (Instr.drive .rw 1).wf = false := by decide
theorem test_wf_zone_code : (Instr.zoneReserved 0b100).wf = false := by decide
theorem test_wf_putStr_quote : (Instr.putStr [0x41, 0x22]).wf = false := by decide
theorem test_wf_writeAt_quote : (Instr.writeAt 0 0 [0x22]).wf = false := by decide
theorem test_wf_render_quote : (Instr.render 0 [0x22]).wf = false := by decide
theorem test_wf_render_long : (Instr.render 0 (List.replicate 17 0x41)).wf = false := by decide
theorem test_wf_render_full : (Instr.render 1 (List.replicate 16 0x41)).wf = true := by decide

/-! ## Decoding: a word of each row, written out from its encoding -/

theorem test_decode_busWord : decode (.busWord 0b100101) = .ok (.busWord .data 0x5) := by decide
theorem test_decode_busWord_read : decode (.busWord 0b010101) = .error .readTransfer := by decide
/-- 'A' is DAT:41, the words 100100 100001 (spec/95 T4). -/
theorem test_decode_bytePair : decode (.bytePair 0b100100100001) = .ok (.bytePair .data 0x41) := by decide
theorem test_decode_bytePair_mixed : decode (.bytePair 0b100100000001) = .error .mixedRegisterSelect := by decide
theorem test_decode_cmdClear : decode (.cmdByte 0b00000001) = .ok .cmdClear := by decide
theorem test_decode_cmdReset : decode (.cmdByte 0b00000010) = .ok (.cmdReset 0) := by decide
theorem test_decode_cmdEntryMode : decode (.cmdByte 0b00000110) = .ok (.cmdEntryMode 1 0) := by decide
theorem test_decode_cmdDisplayCtrl : decode (.cmdByte 0b00001100) = .ok (.cmdDisplayCtrl 1 0 0) := by decide
theorem test_decode_cmdFunctionSet : decode (.cmdByte 0b00101000) = .ok (.cmdFunctionSet 0 1 0) := by decide
theorem test_decode_cmdSetDdram : decode (.cmdByte 0b11000101) = .ok (.cmdSetDdram 0x45) := by decide
theorem test_decode_cmd_none : decode (.cmdByte 0b01000000) = .error .unknownCommandForm := by decide
theorem test_decode_data : decode (.dataByte 0b01000001) = .ok (.data 0x41) := by decide
theorem test_decode_zoneIdle : decode (.zoneCode 0b000) = .ok .zoneIdle := by decide
theorem test_decode_zoneIncrement : decode (.zoneCode 0b001) = .ok .zoneIncrement := by decide
theorem test_decode_zoneDecrement : decode (.zoneCode 0b010) = .ok .zoneDecrement := by decide
theorem test_decode_zoneReset : decode (.zoneCode 0b011) = .ok .zoneReset := by decide
theorem test_decode_zoneExpose : decode (.zoneCode 0b100) = .ok .zoneExpose := by decide
theorem test_decode_zoneReserved : decode (.zoneCode 0b110) = .ok (.zoneReserved 0b110) := by decide
theorem test_decode_drive : decode (line "DRIVE DB, 0xA") = .ok (.drive .db 10) := by decide
theorem test_decode_drive_read : decode (line "DRIVE RW, 1") = .error .readTransfer := by decide
theorem test_decode_drive_level : decode (line "DRIVE RELAY, 2") = .error .badLevel := by decide
theorem test_decode_drive_line : decode (line "DRIVE LAMP, 1") = .error .badLineName := by decide
theorem test_decode_wait : decode (line "WAIT 915000 ; one tick") = .ok (.wait 915000) := by decide
theorem test_decode_sample : decode (line "SAMPLE") = .ok .sample := by decide
theorem test_decode_note : decode (line "NOTE AddressOutOfRange") = .ok (.note .addressOutOfRange) := by decide
theorem test_decode_sendNib : decode (line "SENDNIB CMD, 2") = .ok (.sendNib .command 2) := by decide
theorem test_decode_sendNib_wide : decode (line "SENDNIB CMD, 16") = .error .nibbleTooWide := by decide
theorem test_decode_sendByte : decode (line "SENDBYTE DAT, 0x41") = .ok (.sendByte .data 0x41) := by decide
theorem test_decode_sendByte_rs : decode (line "SENDBYTE REG, 1") = .error .badRegisterSelect := by decide
theorem test_decode_putCmd : decode (line "PUTCMD 0x01") = .ok (.putCmd 1) := by decide
theorem test_decode_putCmd_wide : decode (line "PUTCMD 256") = .error .byteTooWide := by decide
theorem test_decode_putChar : decode (line "PUTCHAR '!'") = .ok (.putChar 0x21) := by decide
theorem test_decode_putStr : decode (line "PUTSTR \"Hi\"") = .ok (.putStr [0x48, 0x69]) := by decide
theorem test_decode_goto : decode (line "GOTO 16, 1   ; out of range") = .ok (.gotoPos 16 1) := by decide
theorem test_decode_goto_count : decode (line "GOTO 5") = .error .wrongOperandCount := by decide
theorem test_decode_init : decode (line "  INIT") = .ok .init := by decide
theorem test_decode_writeAt : decode (line "WRITEAT 0, 0, \"RESET\"") = .ok (.writeAt 0 0 textReset) := by decide
theorem test_decode_render : decode (line "RENDER 1, \"\"") = .ok (.render 1 []) := by decide
theorem test_decode_render_long : decode (line "RENDER 0, \"12345678901234567\"") = .error .renderTooLong := by decide
theorem test_decode_classify : decode (line "CLASSIFY") = .ok .classify := by decide
theorem test_decode_poll : decode (line "POLL ; Expose with ET = 3") = .ok .poll := by decide
theorem test_decode_hInc : decode (line "H_INC") = .ok .hInc := by decide
theorem test_decode_hDec : decode (line "H_DEC") = .ok .hDec := by decide
theorem test_decode_hReset : decode (line "H_RESET") = .ok .hReset := by decide
theorem test_decode_hExpose : decode (line "H_EXPOSE") = .ok .hExpose := by decide
theorem test_decode_hIdle : decode (line "H_IDLE") = .ok .hIdle := by decide
theorem test_decode_banner : decode (line "BANNER") = .ok .banner := by decide
theorem test_decode_boot : decode (line "BOOT") = .ok .boot := by decide
theorem test_decode_unknown : decode (line "JUMP 3") = .error .unknownMnemonic := by decide

/-- The encoder writes a line the notation reads back. -/
theorem test_encode_writeAt : encode (.writeAt 16 1 [0x48, 0x69]) = line "WRITEAT 16, 1, \"Hi\"" := by decide

/-- A table row of each kind of word, as the opcode table numbers it. -/
theorem test_table_command : decodeTableWord 8 0x08 = some (.cmdDisplayCtrl 0 0 0) := by decide
theorem test_table_zone : decodeTableWord 3 0b100 = some .zoneExpose := by decide
theorem test_table_line : decodeTableWord 32 0x544F4F42 = some .boot := by decide
/-- A table word runs as the first instruction after reset. -/
theorem test_fetch_runs : (ask (step (State.reset.withFetchWord 8 0x01)) (fun t => t.trace.length)) = some 17 := by decide

/-- A script is read by line: the samples to the environment, the rest to be run; a bad line is refused by its number (R50). -/
theorem test_script : readScript (text "; P1\nBOOT\nSAMPLES 750, 5\nPOLL") = .ok ([750, 5], [⟨line "BOOT", false⟩, ⟨line "POLL", false⟩]) := by
  decide
/-- R50: PUTCMD of a byte of none of R44's forms is marked; of one of them it is not. -/
theorem test_script_outside : readScript (text "PUTCMD 0x40\nPUTCMD 0x0C")
    = .ok ([], [⟨line "PUTCMD 0x40", true⟩, ⟨line "PUTCMD 0x0C", false⟩]) := by decide
theorem test_script_refused : readScript (text "BOOT\n\nSENDNIB CMD, 16\n") = .error (3, .nibbleTooWide) := by decide

/-! ## Primitives and transport -/

/-- spec/95 T1: the eight events of `sendNibble(0x2, Command)`. -/
theorem test_sendNib : ask (exec (.sendNib .command 0x2) (start [])) (·.trace) = some
    [.set .rs 0 0, .set .rw 0 0, .set .db 2 0, .wait 10 0, .set .e 1 10, .wait 10 10, .set .e 0 20, .wait 10 20] := by decide
/-- spec/95 T2: bus word 101111. -/
theorem test_busWord : ask (exec (.busWord .data 0xF) (start [])) (fun t => (t.busWord, t.e, t.time)) = some (0b101111, 0, 30) := by
  decide
/-- spec/95 T3 and T4: `CMD:28` is the words 000010 001000, ending at 5060. -/
theorem test_sendByte : ask (exec (.sendByte .command 0x28) (start [])) (fun t => (busWords t.trace, t.time, t.trace.length))
    = some ([0b000010, 0b001000], 5060, 17) := by decide
/-- spec/95 T4: `DAT:41`. -/
theorem test_bytePair : ask (exec (.bytePair .data 0x41) (start [])) (fun t => busWords t.trace) = some [0b100100, 0b100001] := by
  decide
/-- spec/95 X3: when every wait lasts d + 1, a nibble lasts 33. -/
theorem test_slow : ask (exec (.sendNib .command 0x2)
    (State.atReset Config.default { Env.free with timing := .fixed 1 } [])) (·.time) = some 33 := by decide
/-- R85: no wait exceeds a given DELAY_EXCESS. -/
theorem test_wait_bounded : ask (exec (.wait 7) (State.atReset { Config.default with delayExcess := some 2 }
    { Env.free with timing := .fixed 9 } [])) (·.time) = some 9 := by decide
theorem test_drive : ask (exec (.drive .relay 1) (start [])) (fun t => (t.relay, t.trace)) = some (1, [.set .relay 1 0]) := by decide
theorem test_drive_read : refusedFor (exec (.drive .rw 1) (start [])) .readTransfer = true := by decide
theorem test_sample : ask (exec .sample (start [300, 5])) (fun t => (t.sample, t.env.samples, t.trace))
    = some (some 300, [5], [.sample 300 0]) := by decide
theorem test_sample_range : refusedFor (exec .sample (start [1024])) (.sampleOutOfRange 1024) = true := by decide
theorem test_note : ask (exec (.note .addressOutOfRange) (start [])) (·.trace) = some [.err .addressOutOfRange 0] := by decide

/-! ## Display driver -/

/-- spec/95 T4 and R44: the words of each command byte. -/
theorem test_cmd_words :
    [Instr.cmdClear, .cmdReset 0, .cmdDisplayCtrl 1 0 0, .cmdEntryMode 1 0, .cmdFunctionSet 0 1 0, .cmdSetDdram 0x4F].map
        (fun i => ask (exec i (start [])) (fun t => busWords t.trace))
      = [some [0b000000, 0b000001], some [0b000000, 0b000010], some [0b000000, 0b001100], some [0b000000, 0b000110],
         some [0b000010, 0b001000], some [0b001100, 0b001111]] := by decide +kernel
/-- spec/95 P2: '!' is DAT:21, the words 100010 100001. -/
theorem test_data : ask (exec (.data 0x21) (start [])) (fun t => busWords t.trace) = some [0b100010, 0b100001] := by decide
theorem test_putChar : ask (exec (.putChar 0x21) (start [])) (fun t => busWords t.trace) = some [0b100010, 0b100001] := by decide
/-- spec/95 D12: `CUR` stays. -/
theorem test_putCmd : ask (exec (.putCmd 0x01) ((start []).setCur 7 1)) (fun t => (t.curCol, t.curLine, t.time)) = some (7, 1, 5060) := by
  decide
/-- spec/95 D11: the empty string sends nothing. -/
theorem test_putStr_empty : ask (exec (.putStr []) (start [])) (fun t => (t.trace, t.time)) = some ([], 0) := by decide
/-- spec/41 R58: "RESET" lasts 25300. -/
theorem test_putStr : ask (exec (.putStr textReset) (start [])) (·.time) = some 25300 := by decide +kernel
/-- spec/95 D4: the largest in-range position. -/
theorem test_goto : ask (exec (.gotoPos 15 1) (start [])) (fun t => (busWords t.trace, t.curCol, t.curLine, t.time))
    = some ([0b001100, 0b001111], 15, 1, 10060) := by decide +kernel
/-- spec/95 D5: out of range, with `CUR = (3, 1)`. -/
theorem test_goto_out : ask (exec (.gotoPos 16 0) ((start []).setCur 3 1)) (fun t => (t.trace, t.curCol, t.curLine, t.time))
    = some ([.err .addressOutOfRange 0], 3, 1, 0) := by decide
/-- spec/95 D8. -/
theorem test_init : ask (exec .init (start [])) (fun t => (busWords t.trace, t.time, t.trace.length, t.curCol))
    = some ([0b000000, 0b000010, 0b000010, 0b001000, 0b000000, 0b001100, 0b000000, 0b000110, 0b000000, 0b000001, 0b001000, 0b000000],
        50360, 104, 0) := by decide +kernel
/-- spec/95 D11. -/
theorem test_writeAt : ask (exec (.writeAt 0 0 textReset) (start [])) (·.time) = some 35360 := by decide +kernel
/-- spec/95 D10. -/
theorem test_render : ask (exec (.render 0 (text "2 sec exposure")) (start [])) (fun t => (t.time, t.trace.length))
    = some (91020, 290) := by decide +kernel
theorem test_render_long : refusedFor (exec (.render 0 (List.replicate 17 0x41)) (start [])) (.renderTooLong 17) = true := by decide
/-- R49 with R62: on a line that is not there, `writeAt` notes the position and still writes the padded text. -/
theorem test_render_line : ask (exec (.render 2 [0x41]) (start [])) (fun t => (t.trace.head?, (busWords t.trace).take 2, t.trace.length))
    = some (some (.err .addressOutOfRange 0), [0b100100, 0b100001], 273) := by decide +kernel
/-- spec/95 D9. -/
theorem test_dec : [0, 1, 9, 10, 50, 99, 100].map decText
    = [some [0x30], some [0x31], some [0x39], some [0x31, 0x30], some [0x35, 0x30], some [0x39, 0x39], none] := by decide

/-! ## Quantizer -/

/-- spec/95 Q1. -/
theorem test_classify : [0, 9, 10, 11, 300, 499, 500, 501, 550, 599, 600, 601, 650, 699, 700, 701, 750, 799, 800, 801, 1023].map
      (fun v => zoneCode (classify Config.default v))
    = [0b100, 0b100, 0, 0, 0, 0, 0, 0b011, 0b011, 0b011, 0, 0b010, 0b010, 0b010, 0, 0b001, 0b001, 0b001, 0, 0, 0] := by decide
theorem test_classify_op : ask (exec .classify ((start []).setSample 750)) (·.zone) = some (some 0b001) := by decide
theorem test_classify_unwritten : faultsWith (exec .classify (start [])) .sampleUnwritten = true := by decide
theorem test_zoneExpose : ask (exec .zoneExpose (start [])) (fun t => (t.zone, t.seq)) = some (some 0b100, .handle .expose 0) := by
  decide
theorem test_zoneReserved : faultsWith (exec (.zoneReserved 0b101) (start [])) (.reservedZone 0b101) = true := by decide
/-- R50: a reserved code in `ZONE` faults at the dispatch. -/
theorem test_dispatch_reserved : faultsWith (step (((start []).setSeq (.poll 2)).setZone 0b111)) (.reservedZone 0b111) = true := by
  decide
/-- I21: overlapping bands are refused. -/
theorem test_bands_overlap : refusedFor (step (State.atReset { Config.default with bands := [⟨.reset, some 500, 600⟩, ⟨.expose, none, 502⟩] }
    Env.free [])) .badConfiguration = true := by decide

/-! ## Exposure controller -/

/-- spec/95 C1. -/
theorem test_hInc : [1, 98, 99].map (fun v => ask (exec .hInc ((start []).setEt v)) (fun t => (t.et, t.time)))
    = [some (2, 291020), some (99, 291020), some (99, 291020)] := by decide +kernel
/-- spec/95 C2. -/
theorem test_hDec : [1, 2, 10, 99].map (fun v => ask (exec .hDec ((start []).setEt v)) (fun t => (t.et, t.time)))
    = [some (1, 291020), some (1, 291020), some (9, 291020), some (98, 291020)] := by decide +kernel
/-- R61: a text above 99 does not exist. -/
theorem test_hInc_dec : faultsWith (exec .hInc ((start []).setEt 120)) (.decOutOfDomain 120) = true := by decide
/-- spec/95 C3. -/
theorem test_hReset : ask (exec .hReset ((start []).setEt 37)) (fun t => (t.et, t.curCol, t.curLine, t.time))
    = some (1, 0, 1, 5146560) := by decide +kernel
/-- spec/95 C5: `ET = 1`. -/
theorem test_hExpose : ask (exec .hExpose (start []))
      (fun t => (t.et, t.tick, t.relay, t.time, t.trace.filter (fun ev => match ev with | .set .relay _ _ => true | _ => false)))
    = some (1, some 1, 0, 1188060, [.set .relay 1 182040, .set .relay 0 1188060]) := by decide +kernel
theorem test_hIdle : ask (exec .hIdle (start [])) (fun t => (t.relay, t.trace)) = some (0, [.set .relay 0 0]) := by decide
/-- spec/43 R74. -/
theorem test_banner : ask (exec .banner (start [])) (·.time) = some 4101080 := by decide +kernel
/-- spec/95 X2: the boot sequence ends at 4156500. -/
theorem test_boot : ask (exec .boot (start [])) (fun t => (t.time, t.seq, t.et, t.relay, t.curCol, t.curLine))
    = some (4156500, .poll 0, 1, 0, 0, 1) := by decide +kernel
/-- spec/95 S4: an Idle iteration. -/
theorem test_poll_idle : ask (exec .poll (ready [300])) (fun t => (t.trace, t.seq)) = some ([.sample 300 0, .set .relay 0 0], .poll 0) := by
  decide
/-- spec/95 Q2: an 11-bit sample above the calibrated range. -/
theorem test_poll_wide : ask (exec .poll { ready [1500] with cfg := { Config.default with sampleBits := 11 } }) (fun t => (t.trace, t.zone))
    = some ([.sample 1500 0, .err .sampleOutOfCalibratedBand 0, .set .relay 0 0], some 0b000) := by decide

/-! ## The machine -/

/-- R68: above 1023 a sample is Idle, whatever band would hold it. -/
theorem test_classify_above : classify { Config.default with bands := [⟨.expose, some 1000, 1500⟩] } 1024 = .idle := by decide
/-- R6: every parameter but the bands is free: another geometry, an `ET_RESET` outside its domain. -/
theorem test_config_free : configOk { Config.default with cols := 20, lines := 4, etMin := 5 } = true := by decide
/-- R5: the nibble timings are at least 10 microseconds. -/
theorem test_config_timing : refusedFor (step (State.atReset { Config.default with tPw := 9 } Env.free [])) .badConfiguration = true := by
  decide

/-- spec/95 X1: reset abandons whatever runs. -/
theorem test_reset :
    ask (step (askReset ⟨0, 0⟩ ((((ready []).setLine .relay 1).setEt 50).setSeq (.handle .expose 600))))
        (fun t => (t.relay, t.et, t.seq, t.time, t.env.reset)) = some (0, 1, .boot 0, 0, none) := by decide
/-- R92: a reset in the middle of an operation: after two actions of `sendByte` (the settle delay, RS), and 7 microseconds into the
wait of a script. -/
theorem test_reset_within : ask (abandoned ⟨2, 0⟩ ((start []).setScript [line "SENDBYTE DAT, 1"])) (fun t => (t.rs, t.time, t.script))
      = some (1, 5000, []) ∧
    ask (abandoned ⟨0, 7⟩ ((start []).setScript [line "WAIT 50"])) (fun t => (t.trace, t.time)) = some ([.wait 50 0], 7) := by decide
/-- R93: such a reset leaves the reset values as well. -/
theorem test_reset_within_poll : ask (step (askReset ⟨6, 3⟩ ((start [5]).setScript [line "POLL"])))
    (fun t => (t.sample, t.zone, t.seq, t.time, t.trace)) = some (none, none, .boot 0, 0, []) := by decide +kernel
/-- R20: the first step of the block's own program is the power-up wait. -/
theorem test_step_boot : ask (step (start [])) (fun t => (t.trace, t.seq, t.time)) = some ([.wait 15000 0], .boot 1, 15000) := by
  decide +kernel
/-- R20: the last action of POLL dispatches. -/
theorem test_step_dispatch : ask (step (((ready []).setSeq (.poll 1)).setSample 5)) (fun t => (t.zone, t.seq))
    = some (some 0b100, .handle .expose 0) := by decide +kernel

/-- Draws of the display for the tests. -/
def draws : DisplayDraws := { lowInput := fun _ => 0, address := fun d => d.ac, shift := fun _ _ => none, command := fun _ d => d }

/-- A display at power-on, its cells holding anything. -/
def poweredOn : Display :=
  { mode := .eight, half := none, ac := 5, cells := List.replicate 128 0xFF, id := 0, sh := 1, on := 0, cursor := 1, blink := 1,
    twoLines := 0, font := 1, shifted := false, lowInputs := 0 }

/-- R37: with `DM.ID = 0` the address decrements; R39: incrementing, 0x27 is followed by 0x40; past 0x7F
no rule says what follows. -/
theorem test_display_address : nextAddress draws { poweredOn with ac := 5 } = 4 ∧
    nextAddress draws { poweredOn with id := 1, twoLines := 1, ac := 0x27 } = 0x40 ∧
    nextAddress { draws with address := fun _ => 9 } { poweredOn with id := 1, twoLines := 1, ac := 0x7F } = 9 := by decide
/-- R39: a cursor or display shift leaves the cells alone. -/
theorem test_display_shift : (takeCommand draws 0x18 poweredOn).cells = poweredOn.cells ∧ (takeCommand draws 0x18 poweredOn).shifted = true :=
  ⟨rfl, rfl⟩

/-- spec/95 P2: line 1 shows five spaces and "Hi!". -/
theorem test_display : ask (execAll [.init, .gotoPos 5 1, .putStr (text "Hi"), .gotoPos 16 1, .putChar 0x21] (start []))
      (fun t => ((t.display draws poweredOn).line 1, t.time, t.curCol))
    = some (text "     Hi!        ", 75600, 5) := by decide +kernel

/-- R39, R98: the settle delay exceeds the longest execution time of every byte. -/
theorem test_settle_delay : ∀ (rs : Bit) (b : Byte), executionTime rs b < Config.default.tSettle := by decide +kernel

/-- R52, R54, R99: the discipline holds along the initialisation. -/
theorem test_bus_discipline : ask (exec .init (start [])) (fun t => busDisciplined t.cfg t.trace) = some true := by decide +kernel
/-- R97: a pulse without its setup time breaks the discipline. -/
theorem test_bus_undisciplined : ask (execAll [.drive .db 1, .drive .e 1, .drive .e 0] (start [])) (fun t => busDisciplined t.cfg t.trace)
    = some false := by decide

/-! ## Witnesses: for each statement with hypotheses, data that meets them all, at the boundary values of its clauses -/

/-- The outcome is a next state. -/
def answers (r : Host.Outcome State Fault Refusal) : Bool :=
  match r with
  | .next _ => true
  | .fault _ | .refused _ => false

/-- A state in the middle of things: lines, registers and trace at values that are not the reset values. -/
def busy : State :=
  { (ready [0, 1023]).setTick 3 with
    db := 9, rs := 1, rw := 1, relay := 1, curCol := 15, curLine := 1, zone := some 1, phaseEt := 99, et := 99, time := 9,
    trace := [.wait 4 1, .set .rs 1 6] }

/-- A configuration with SAMPLE_BITS of 11. -/
def wide : Config := { Config.default with sampleBits := 11 }

/-- At the start of a step, within the first action, and after actions of an operation of the script, within the wait that follows. -/
theorem witness_ResetLeavesResetValues :
    configOk busy.cfg = true ∧
      [(⟨0, 0⟩, ([] : List Encoded)), (⟨0, 5⟩, [line "WAIT 9"]), (⟨4, 5⟩, [line "SENDBYTE DAT, 1"]), (⟨9, 0⟩, [line "JUMP"])].all
        (fun x => (askReset x.1 (busy.setScript x.2)).env.reset == some x.1 && answers (abandoned x.1 (askReset x.1 (busy.setScript x.2))))
      = true ∧ ((⟨0, 5⟩ : ResetPoint).after = 0) := by decide +kernel

/-- Two bands that share the one sample 500. -/
theorem witness_OverlappingBandsAreRejected :
    let s := { busy with cfg := { Config.default with bands := [⟨.reset, some 499, 600⟩, ⟨.expose, none, 501⟩] } }
    s.cfg.bands[0]? = some ⟨.reset, some 499, 600⟩ ∧ s.cfg.bands[1]? = some ⟨.expose, none, 501⟩ ∧
      bandHolds ⟨.reset, some 499, 600⟩ 500 = true ∧ bandHolds ⟨.expose, none, 501⟩ 500 = true := by decide

theorem witness_NoStepWritesTheConfiguration : answers (step busy) = true ∧ answers (step (askReset ⟨0, 3⟩ busy)) = true := by
  decide +kernel

theorem witness_TimeNeverFallsAndTheTraceOnlyGrows : busy.env.reset = none ∧ answers (step busy) = true := by decide +kernel

theorem witness_EveryStepKeepsTheTraceInTimeOrder : traceOrdered busy ∧ answers (step busy) = true := by
  refine ⟨⟨by decide, by decide⟩, by decide +kernel⟩

/-- Each primitive answers a next state, and each of the register writes. -/
theorem witness_EachPrimitiveAppendsOneStampedEvent :
    [Action.drive .db 15, .drive .relay 1, .wait 0, .sample, .note .sampleOutOfCalibratedBand, .setEt 99, .setCur 15 1, .setTick 0].all
      (fun a => answers (perform a busy)) = true ∧ answers (perform .classify (busy.setSample 0)) = true := by decide

theorem witness_DriveSetsOneLine :
    levelAdmitted .db 15 = true ∧ levelAdmitted .rs 1 = true ∧ levelAdmitted .rw 0 = true ∧ levelAdmitted .e 1 = true ∧
      levelAdmitted .relay 0 = true := by decide

/-- The clauses at their boundaries: the level 2 on each 1-bit line, and the levels 1, 2 and 15 of RW. -/
theorem witness_DriveRefusesWhatItsLineDoesNotAdmit :
    refusedFor (exec (.drive .rw 1) busy) .readTransfer = true ∧ refusedFor (exec (.drive .rw 2) busy) (.badLevel .rw 2) = true ∧
      refusedFor (exec (.drive .e 2) busy) (.badLevel .e 2) = true ∧
      [1, 2, 15].map (fun v => decode (encode (.drive .rw v))) = [.error .readTransfer, .error .badLevel, .error .badLevel] := by decide

/-- DELAY_EXCESS given, and given as 0. -/
theorem witness_WaitLastsAtLeastItsLength :
    ({ Config.default with delayExcess := some 2 } : Config).delayExcess = some 2 ∧
      ask (exec (.wait 5) { busy with cfg := { Config.default with delayExcess := some 0 }, env := { busy.env with timing := .fixed 7 } })
        (·.time) = some 14 := by decide

/-- Samples at both ends of the range, and none. -/
theorem witness_SampleReadsOneValueInRange :
    samplesInRange busy ∧ busy.env.samples = 0 :: [1023] ∧ samplesInRange (ready []) ∧ answers (exec .sample (ready [])) = true := by
  refine ⟨?_, rfl, ?_, by decide⟩ <;> unfold samplesInRange <;> decide

/-- A constant equal to the clock's rate, and one just below it. -/
theorem witness_CalibratedWaitsAreLongEnough :
    let at16 : Config := { Config.default with cyclesPerUs := ⟨16, 0⟩ }
    16 * (at16.cyclesPerUs.denPred + 1) ≤ at16.cyclesPerUs.num * (0 + 1) ∧
      at16.cyclesPerUs.num * (0 + 1) < 17 * (at16.cyclesPerUs.denPred + 1) := by decide

theorem witness_NibbleTimingHasItsLowerBounds : answers (exec (.sendByte .data 0xFF) busy) = true := by decide

theorem witness_PutStringSendsItsCharactersInOrder :
    ([] : List Byte) = [] ∧ [0x48, 0x69].getLast? = some (0x69 : Byte) := by decide

/-- The corners of the range and the first values beyond it. -/
theorem witness_GotoMovesTheCursorOnlyInRange :
    [(0, 0), (15, 0), (15, 1), (16, 0), (0, 2), (16, 2)].map (fun p => positionInRange busy.cfg p.1 p.2)
      = [true, true, true, false, false, false] ∧
    [(15, 1), (16, 1), (19, 0), (0, 2)].map (fun p => positionInRange { busy.cfg with cols := 20, lines := 4 } p.1 p.2)
      = [true, false, false, false] ∧
    [(3, 0), (4, 0), (0, 1)].map (fun p => positionInRange { busy.cfg with cols := 4, lines := 1 } p.1 p.2)
      = [true, false, false] := by decide

theorem witness_SetAddressByteOfEachCell :
    (setAddressByte Config.default 0 0).toNat = 0x80 ∧ (setAddressByte Config.default 15 1).toNat = 0xCF := by decide

theorem witness_InitSendsItsSequence : standardGeometry busy.cfg := ⟨rfl, rfl⟩

theorem witness_WriteAtIsGotoThenPutString :
    (15 < busy.cfg.cols ∧ 15 ≤ 15 ∧ 1 < busy.cfg.lines ∧ 1 ≤ 1) ∧ ¬ (16 < busy.cfg.cols ∧ 16 ≤ 15 ∧ 0 < busy.cfg.lines ∧ 0 ≤ 1) := by
  decide

/-- The longest text that is shown, and the shortest that is refused; the last line that is there, and the first that is not. -/
theorem witness_RenderWritesAWholeLine :
    standardGeometry busy.cfg ∧ (List.replicate 16 (0x41 : Byte)).length ≤ 16 ∧ 16 < (List.replicate 17 (0x41 : Byte)).length ∧
      quotable (List.replicate 17 0x41) = true ∧ [1, 2].map (positionInRange busy.cfg 0) = [true, false] :=
  ⟨⟨rfl, rfl⟩, by decide, by decide, by decide, by decide⟩

/-- `ET` and what the handlers make of it, just above 99. -/
theorem witness_DecIsOneOrTwoDigits :
    let s := { busy with cfg := { Config.default with etMax := 127 }, et := 100 }
    99 < s.et.toNat ∧ 99 < (incremented s.cfg s.et).toNat ∧ 99 < (decremented s.cfg (101 : Seconds)).toNat ∧
      faultsWith (exec .hExpose s) (.decOutOfDomain 100) = true ∧ faultsWith (exec .hInc s) (.decOutOfDomain 101) = true ∧
      faultsWith (exec .hDec (s.setEt 101)) (.decOutOfDomain 100) = true := by decide

theorem witness_ClassifyFollowsTheBands :
    Config.default.bands = Config.defaultBands ∧ bandsDisjoint Config.defaultBands = true ∧
      Config.defaultBands.Perm Config.defaultBands.reverse ∧ 1023 ≤ 1023 ∧ 1023 < 1024 :=
  ⟨rfl, by decide, (List.reverse_perm _).symm, by decide, by decide⟩

theorem witness_ClassifyWritesTheZone : (busy.setSample 701).sample = some 701 ∧ busy.sample = none := by decide

/-- The lowest reserved code and the highest. -/
theorem witness_ReservedZoneCodesFault :
    let s := ((ready []).setSeq (.poll 2)).setSample 1023
    4 < (0b101 : ZoneCode).toNat ∧ (s.setZone 0b101).zone = some 0b101 ∧ configOk s.cfg = true ∧ s.env.reset = none ∧ s.script = [] ∧
      s.seq = .poll 2 ∧ outOfCalibratedBand s.sample = false ∧ faultsWith (step (s.setZone 0b101)) (.reservedZone 0b101) = true := by
  decide

/-- `ET` at ET_MAX, and just below it. -/
theorem witness_IncrementAddsOneSecondClamped :
    standardGeometry busy.cfg ∧ busy.et = busy.cfg.etMax ∧ (98 : Seconds) ≤ busy.cfg.etMax ∧ busy.cfg.etMax.toNat ≤ 99 :=
  ⟨⟨rfl, rfl⟩, rfl, by decide, by decide⟩

/-- `ET` at ET_MIN, and at 99. -/
theorem witness_DecrementTakesOneSecondClamped :
    standardGeometry busy.cfg ∧ busy.cfg.etMin ≤ (1 : Seconds) ∧ busy.cfg.etMin ≤ busy.et ∧ busy.et.toNat ≤ 99 :=
  ⟨⟨rfl, rfl⟩, by decide, by decide, by decide⟩

theorem witness_ResetHandlerRestoresOneSecond : standardGeometry busy.cfg := ⟨rfl, rfl⟩

theorem witness_BannerShowsItsTwoLines : standardGeometry busy.cfg := ⟨rfl, rfl⟩

theorem witness_ExposeCountsItsSeconds :
    standardGeometry busy.cfg ∧ busy.et.toNat = 99 ∧ ((start []).setEt 0).et.toNat ≤ 99 := ⟨⟨rfl, rfl⟩, by decide, by decide⟩

theorem witness_RelayIsOnForEveryTick :
    standardGeometry (start []).cfg ∧ answers (exec .hExpose (start [])) = true ∧ deterministic (start []) :=
  ⟨⟨rfl, rfl⟩, by decide +kernel, rfl⟩

/-- A sample at the end of the calibrated range, the first beyond it, and none, which leaves the sample free. -/
theorem witness_PollRunsTheHandlerOfItsSample :
    samplesInRange (ready [1023]) ∧ (ready [1023]).env.samples = 1023 :: [] ∧
      samplesInRange { ready [1024] with cfg := wide } ∧ { ready [1024] with cfg := wide }.env.samples = 1024 :: [] ∧
      samplesInRange (ready []) := by
  unfold samplesInRange
  decide

/-- A sample of every zone, and none. -/
theorem witness_PollCompletes :
    [799, 601, 599, 9, 10].map (classify Config.default) = [.increment, .decrement, .reset, .expose, .idle] ∧
      samplesInRange (busy.setSamples [799, 601, 599, 9, 10]) ∧ samplesInRange (busy.setSamples []) ∧ standardGeometry busy.cfg ∧
      etInDomain busy.cfg busy.et ∧ busy.cfg.etMax.toNat ≤ 99 :=
  ⟨by decide, by unfold samplesInRange; decide, by unfold samplesInRange; decide, ⟨rfl, rfl⟩, ⟨by decide, by decide⟩, by decide⟩

theorem witness_BootEntersTheControlLoop : standardGeometry busy.cfg := ⟨rfl, rfl⟩

theorem witness_DeterministicDurations :
    deterministic busy ∧ busy.cfg = Config.default ∧ busy.et.toNat ≤ 99 ∧ (List.replicate 16 (0x41 : Byte)).length ≤ 16 :=
  ⟨rfl, rfl, by decide, by decide⟩

/-- Each instruction that a clause lets write nothing, answering a next state. -/
theorem witness_EachRegisterHasOnlyItsWriters :
    [Instr.sample, .zoneExpose, .hIdle, .wait 3, .note .addressOutOfRange, .drive .e 1, .putCmd 1, .gotoPos 16 0].all
      (fun i => answers (exec i busy)) = true ∧ answers (exec .classify (busy.setSample 1)) = true := by decide

/-- Two states that differ in time, trace and cursor, at the step that samples. -/
theorem witness_ObservationsDecideNothing :
    SameButObserved busy { busy with time := 77, trace := [], curCol := 0, curLine := 0 } ∧ answers (step busy) = true :=
  ⟨⟨rfl, ⟨rfl, rfl, rfl, rfl⟩, rfl, rfl, rfl, rfl, rfl, rfl, rfl, rfl, rfl⟩, by decide +kernel⟩

theorem witness_RelayLineFollowsItsActiveLevel : busy.relay = 1 ∧ (start []).relay = 0 := by decide

/-- A well-formed instruction for each kind of operand, at the ends of its range. -/
theorem witness_DecodeEncodeRoundTrip :
    [Instr.drive .db 15, .drive .rw 0, .zoneReserved 0b101, .zoneReserved 0b111, .putStr [], .writeAt 16 2 [0x21, 0x3B],
      .render 1 (List.replicate 16 0xFF)].all Instr.wf = true := by decide

theorem witness_DecodedInstructionsAreWellFormed :
    decode (line "RENDER 1, \"0123456789ABCDEF\"") = .ok (.render 1 (text "0123456789ABCDEF")) ∧
      decode (.zoneCode 0b101) = .ok (.zoneReserved 0b101) ∧ decode (line "DRIVE DB, 15") = .ok (.drive .db 15) ∧
      [0x00, 0x01, 0x02, 0x3F, 0x40, 0x80].map (fun v => (Instr.putCmd v).outsideProgram) = [true, false, false, true, true, false] := by
  decide

/-- A next operation that decodes, and one that is refused. -/
theorem witness_StepRunsTheScriptsNextOperation :
    let s := busy.setScript [line "GOTO 16, 1", line "JUMP"]
    configOk s.cfg = true ∧ s.env.reset = none ∧ s.script = line "GOTO 16, 1" :: [line "JUMP"] ∧
      decode (line "GOTO 16, 1") = .ok (.gotoPos 16 1) ∧ decode (line "JUMP") = .error .unknownMnemonic := by decide

/-- A step within a phase (BOOT, its first action), and the last one of a phase (H_IDLE's only action; POLL's second). -/
theorem witness_StepPerformsTheActionAtItsIndex :
    configOk (start []).cfg = true ∧ (start []).env.reset = none ∧ (start []).script = [] ∧
      (start []).phaseList = .ok (bootActions Config.default) ∧ (bootActions Config.default)[0]? = some (.wait 15000) ∧
      answers (perform (.wait 15000) (start []).atPhaseStart) = true ∧ 0 + 1 < (bootActions Config.default).length ∧
      ((ready []).setSeq (.handle .idle 0)).phaseList = .ok idleActions ∧ idleActions.length ≤ 0 + 1 ∧
      (((ready []).setSeq (.poll 1)).setSample 5).phaseList = .ok (pollActions (some 5)) ∧ (pollActions (some 5)).length ≤ 1 + 1 ∧
      ask (perform .classify (((ready []).setSeq (.poll 1)).setSample 5)) (·.zone) = some (some (zoneCode .expose)) :=
  ⟨by decide, rfl, rfl, rfl, rfl, rfl, by decide +kernel, rfl, by decide, rfl, by decide, by decide⟩

/-- The block at the start of an iteration, `ET` at 99. -/
theorem runs_ready : RunsOwnProgram ((ready [0, 1023]).setEt 99) where
  noScript  := rfl
  config    := by decide
  samples   := by unfold samplesInRange; decide
  et        := ⟨by decide, by decide⟩
  phaseEt   := ⟨by decide, by decide⟩
  write     := rfl
  registers := ⟨fun h => absurd h (by decide), fun h => absurd h (by decide)⟩
  position  := ⟨pollActions none, rfl, by decide, by decide, by decide⟩

theorem witness_OwnProgramNeverStopsAndKeepsItsInvariant : RunsOwnProgram ((ready [0, 1023]).setEt 99) := runs_ready

/-- In the middle of an exposure of one second, just after the relay came on. -/
def exposing : State := ((start []).setLine .relay 1).setSeq (.handle .expose 583)

/-- In BOOT, with `E` up for the first nibble. -/
def pulsing : State := ((start []).setLine .e 1).setSeq (.boot 7)

theorem runs_exposing : ∃ as, exposing.phaseList = .ok as ∧ exposing.seq.index < as.length ∧
    levelOfBit exposing.relay = levelAfter .relay 0 (as.take exposing.seq.index) ∧
    levelOfBit exposing.e = levelAfter .e 0 (as.take exposing.seq.index) := by
  refine ⟨_, rfl, ?_, ?_, ?_⟩ <;> decide +kernel

/-- A state with the relay on, and one with `E` at 1: the two clauses that have a premise. -/
theorem witness_InvariantsOfTheOwnProgram :
    RunsOwnProgram exposing ∧ exposing.relay = 1 ∧ RunsOwnProgram pulsing ∧ pulsing.e = 1 ∧ exposing.cfg.etMin = 1 ∧
      exposing.cfg.etMax = 99 :=
  ⟨{ noScript := rfl, config := by decide, samples := by unfold samplesInRange; decide, et := ⟨by decide, by decide⟩,
     phaseEt := ⟨by decide, by decide⟩, write := rfl, registers := trivial, position := runs_exposing }, rfl,
   { noScript := rfl, config := by decide, samples := by unfold samplesInRange; decide, et := ⟨by decide, by decide⟩,
     phaseEt := ⟨by decide, by decide⟩, write := rfl, registers := trivial,
     position := ⟨bootActions Config.default, rfl, by decide +kernel, by decide +kernel, by decide +kernel⟩ }, rfl, rfl, rfl⟩

theorem witness_BootStepsRefineTheBootSequence :
    configOk (start []).cfg = true ∧ (start []).env.reset = none ∧ (start []).script = [] ∧ (start []).seq = .boot 0 := by decide

theorem witness_PollStepsRefineTheIteration :
    configOk (ready [5]).cfg = true ∧ (ready [5]).env.reset = none ∧ (ready [5]).script = [] ∧ (ready [5]).seq = .poll 0 := by decide

/-- The first thirty steps after reset, the first byte among them. -/
theorem witness_OwnProgramKeepsTheBusDiscipline :
    answers (Sys2Proof.core.run 30 (State.atReset Config.default { Env.free with timing := .fixed 1 } [])) = true := by decide +kernel

/-- After thirty steps the display has taken the first byte, CMD_RESET. -/
theorem witness_OwnProgramSendsOnlyItsCommandsAndCharacters :
    ask (Sys2Proof.core.run 30 (State.atReset Config.default { Env.free with timing := .fixed 1 } []))
      (fun t => bytePairs (busWords t.trace)) = some [0b000000000010] := by decide +kernel

theorem witness_InitBringsTheDisplayIntoStep :
    poweredOn.poweredOn = true ∧
      answers (exec .init (State.atReset Config.default { Env.free with timing := .fixed 1 } [])) = true := by decide +kernel

/-- A display in step. -/
def shown : Display := { poweredOn with mode := .four, id := 1, sh := 0, twoLines := 1 }

theorem witness_RenderShowsItsTextAndNothingElse :
    busy.cfg = Config.default ∧ shown.inStep = true ∧ BusLines.atReset.e = 0 ∧ (List.replicate 16 (0x41 : Byte)).length ≤ 16 ∧
      1 ≤ 1 ∧ answers (exec (.render 1 (List.replicate 16 0x41)) busy) = true :=
  ⟨rfl, by decide +kernel, rfl, by decide, by decide, by decide +kernel⟩

end Sys2Proof.Tests
end

section
/-!
PROOFS of the obligations of spec/00_scope.md: the bands of an admitted configuration share no sample (R6, R65), and what one drive
of a line does (R8, R22).
-/

namespace Sys2Proof.Machine

/-! ## The band table -/

/-- A band holds the samples from its lowest one up to, and not with, its upper end. -/
theorem bandHolds_iff {b : Band} {v : Nat} : bandHolds b v = true ↔ bandLow b ≤ v ∧ v < b.below := by
  cases hb : b.above <;> simp [bandHolds, bandLow, hb]

theorem bandsApart_iff {a b : Band} : bandsApart a b = true ↔ min a.below b.below ≤ max (bandLow a) (bandLow b) := by
  simp [bandsApart]

/-- A sample both bands hold lies from the higher of their lowest samples on and below the lower of their upper ends. -/
theorem not_bandsApart_of_bandHolds {a b : Band} {v : Nat} (ha : bandHolds a v = true) (hb : bandHolds b v = true) :
    ¬ bandsApart a b = true := by
  obtain ⟨lowA, belowA⟩ := bandHolds_iff.1 ha
  obtain ⟨lowB, belowB⟩ := bandHolds_iff.1 hb
  have hlow : max (bandLow a) (bandLow b) ≤ v := max_le lowA lowB
  have hbelow : v < min a.below b.below := lt_min belowA belowB
  rw [bandsApart_iff, not_le]
  exact hlow.trans_lt hbelow

theorem bandsDisjoint_iff_pairwise {bands : List Band} :
    bandsDisjoint bands = true ↔ bands.Pairwise (fun a b => bandsApart a b = true) := by
  induction bands with
  | nil => simp [bandsDisjoint]
  | cons b bs ih => simp [bandsDisjoint, ih]

/-- Of two bands at different places of a disjoint table at most one holds a sample. -/
theorem not_bandsDisjoint_of_bandHolds {bands : List Band} {i j v : Nat} {a b : Band} (hij : i < j) (hi : bands[i]? = some a)
    (hj : bands[j]? = some b) (ha : bandHolds a v = true) (hb : bandHolds b v = true) : ¬ bandsDisjoint bands = true := by
  intro hd
  obtain ⟨hil, rfl⟩ := List.getElem?_eq_some_iff.1 hi
  obtain ⟨hjl, rfl⟩ := List.getElem?_eq_some_iff.1 hj
  have hapart := List.pairwise_iff_getElem.1 (bandsDisjoint_iff_pairwise.1 hd) i j hil hjl hij
  exact not_bandsApart_of_bandHolds ha hb hapart

theorem configOk_bandsDisjoint {cfg : Config} (h : configOk cfg = true) : bandsDisjoint cfg.bands = true := by
  simp only [configOk, Bool.and_eq_true] at h
  obtain ⟨⟨⟨hbands, -⟩, -⟩, -⟩ := h
  exact hbands

/-- A step under a configuration the spec does not admit refuses it, before a reset, the script or the program is looked at (R6). -/
theorem step_of_not_configOk {s : State} (h : ¬ configOk s.cfg = true) : step s = .refused .badConfiguration := if_neg h

/-- Settles O2: a table with a shared sample is not disjoint, so its configuration is not admitted. -/
theorem overlappingBandsAreRejected : Obligations.OverlappingBandsAreRejected := by
  intro s i j a b v hij hi hj ha hb
  have hbands : ¬ bandsDisjoint s.cfg.bands = true := not_bandsDisjoint_of_bandHolds hij hi hj ha hb
  exact step_of_not_configOk (mt configOk_bandsDisjoint hbands)

/-! ## One drive of a line -/

theorem execDrive_of_levelAdmitted {l : Line} {v : Nibble} (h : levelAdmitted l v = true) (s : State) :
    execDrive l v s = perform (.drive l v) s := if_pos h

/-- A drive to an admitted level leaves its line at that level. -/
theorem perform_drive_lineLevel_same {l : Line} {v : Nibble} {s t : State} (hv : levelAdmitted l v = true)
    (h : perform (.drive l v) s = .next t) : t.lineLevel l = v := by
  rw [perform_lineLevel h l (by rintro _ ⟨⟩; exact hv)]
  simp [levelAfter]

/-- A drive leaves every other line at its level, whatever the level driven. -/
theorem perform_drive_lineLevel_other {l l' : Line} {v : Nibble} {s t : State} (hl : l' ≠ l)
    (h : perform (.drive l v) s = .next t) : t.lineLevel l' = s.lineLevel l' := by
  rw [perform_lineLevel h l' (by rintro _ ⟨⟩; exact absurd rfl hl)]
  simp [levelAfter, hl.symm]

/-- Settles O7: an admitted DRIVE is the one action, whose levels, event, time and frame are the laws of `perform`. -/
theorem driveSetsOneLine : Obligations.DriveSetsOneLine := by
  intro l v s hv
  obtain ⟨t, ht, htrace, -⟩ := drive_step l v s
  have hexec : exec (.drive l v) s = .next t := by rw [exec_drive, execDrive_of_levelAdmitted hv, ht]
  obtain ⟨hsurroundings, hposition, -⟩ := perform_frame ht
  have htakes : takes s t 0 := perform_takes ht
  have hquantizer : sameQuantizer s t := perform_quantizer ht rfl
  have hcursor : sameCursor s t := perform_cur ht (by simp)
  have het : t.et = s.et := perform_et ht (by simp)
  have htick : t.tick = s.tick := perform_tick ht (by simp)
  exact ⟨t, hexec, perform_drive_lineLevel_same hv ht, fun l' hl => perform_drive_lineLevel_other hl ht, htrace, htakes,
    hsurroundings, hposition, hquantizer, hcursor, het, htick⟩

end Sys2Proof.Machine
end

section
/-!
PROOFS of the obligations of spec/10_state.md: what the block's own program keeps (R26), what no step changes (R21, R24), who
writes each register (R14 to R20), and that the steps of a phase do what its operation does (R20).
-/

namespace Sys2Proof.Machine

/-! ## The events of the primitives and the relay line -/

theorem bitLevel_levelOfBit (b : Bit) : bitLevel (levelOfBit b) = b := by revert b; decide

/-- A drive to the level a line already holds changes no level. -/
theorem perform_drive_lineLevel_held {l : Line} {s t : State} (h : perform (.drive l (s.lineLevel l)) s = .next t) (l' : Line) :
    t.lineLevel l' = s.lineLevel l' := by
  by_cases hl : l' = l
  · subst hl
    cases h
    cases l' with
    | db => rfl
    | rs | rw | e | relay => exact congrArg levelOfBit (bitLevel_levelOfBit _)
  · exact perform_drive_lineLevel_other hl h

theorem perform_sample_trace {s t : State} (h : perform .sample s = .next t) :
    ∃ v, t.sample = some v ∧ t.trace = s.trace ++ [.sample v s.time] := by
  rw [perform] at h
  rcases samplePrim_cases s with ⟨-, hp⟩ | ⟨v, vs, -, -, hp⟩ | ⟨v, vs, -, -, hp⟩ <;> rw [hp] at h <;> cases h
  · exact ⟨_, rfl, rfl⟩
  · exact ⟨v, rfl, rfl⟩

/-- The actions that only write a register. -/
theorem perform_registerWrite_trace {a : Action} {s t : State}
    (ha : a = .classify ∨ (∃ v, a = .setEt v) ∨ (∃ c l, a = .setCur c l) ∨ (∃ v, a = .setTick v))
    (h : perform a s = .next t) : t.trace = s.trace := by
  rcases ha with rfl | ⟨v, rfl⟩ | ⟨c, l, rfl⟩ | ⟨v, rfl⟩
  · rw [perform] at h
    rcases classifyPrim_cases s with ⟨-, hp⟩ | ⟨v, -, hp⟩ <;> rw [hp] at h <;> cases h
    rfl
  all_goals cases h; rfl

/-- Settles O6: what each action does to the trace, action by action. -/
theorem eachPrimitiveAppendsOneStampedEvent : Obligations.EachPrimitiveAppendsOneStampedEvent := by
  refine ⟨fun s t l v h => ?_, fun s t l l' h => perform_drive_lineLevel_held h l', fun s t d h => ?_,
    fun s t h => perform_sample_trace h, fun s t k h => ?_, fun s t a ha h => perform_registerWrite_trace ha h,
    fun s q => s.setSeq_trace q, rfl⟩
  · obtain ⟨u, hu, htrace, -⟩ := drive_step l v s
    cases hu.symm.trans h
    exact htrace
  · obtain ⟨u, hu, htrace, -⟩ := wait_step d s
    cases hu.symm.trans h
    exact htrace
  · cases h
    rfl

/-- Settles O46: the two levels of the relay line differ. -/
theorem relayLineFollowsItsActiveLevel : Obligations.RelayLineFollowsItsActiveLevel := by
  intro s
  have hdiffer : ∀ b : Bit, ~~~ b ≠ b := by decide
  unfold State.relayLevel
  split
  · next h => exact iff_of_true rfl h
  · next h => exact iff_of_false (hdiffer _) h

/-! ## What the lists of actions are made of -/

/-- A list of actions made of whole nibbles (R51) and, between them, of actions that `P` allows. -/
inductive Nibbled (cfg : Config) (P : Action → Prop) : List Action → Prop
  | nil : Nibbled cfg P []
  | cons {a : Action} {as : List Action} : P a → Nibbled cfg P as → Nibbled cfg P (a :: as)
  | nibble {as : List Action} (rs : RegSel) (n : Nibble) :
    Nibbled cfg P as → Nibbled cfg P (sendNibbleActions cfg rs n ++ as)

/-- The actions that a transfer of bytes, a wait or a note consists of beside its nibbles. -/
def Action.isPause : Action → Prop
  | .wait _ | .note _ => True
  | .drive _ _ | .sample | .classify | .setEt _ | .setCur _ _ | .setTick _ => False

/-- The actions of the display driver beside its nibbles: those of a transfer and the shadow cursor (R64). -/
def Action.isDriver : Action → Prop
  | .wait _ | .note _ | .setCur _ _ => True
  | .drive _ _ | .sample | .classify | .setEt _ | .setTick _ => False

/-- The actions of a zone's handler beside its nibbles (R71 to R76), from the value of `ET` at its start. -/
def Action.inHandler (cfg : Config) (et : Seconds) : Zone → Action → Prop
  | .idle, a      => a = .drive .relay 0
  | .increment, a => a.isDriver ∨ a = .setEt (incremented cfg et)
  | .decrement, a => a.isDriver ∨ a = .setEt (decremented cfg et)
  | .reset, a     => a.isDriver ∨ a = .setEt cfg.etReset
  | .expose, a    => a.isDriver ∨ a = .drive .relay 1 ∨ a = .drive .relay 0 ∨ ∃ v, a = .setTick v

theorem Action.isPause.isDriver {a : Action} (h : a.isPause) : a.isDriver := by
  cases a <;> simp_all [Action.isPause, Action.isDriver]

namespace Nibbled

variable {cfg : Config} {P Q : Action → Prop} {as bs : List Action}

theorem append (h : Nibbled cfg P as) (k : Nibbled cfg P bs) : Nibbled cfg P (as ++ bs) := by
  induction h with
  | nil => exact k
  | cons ha _ ih => exact .cons ha ih
  | nibble rs n _ ih => rw [List.append_assoc]; exact .nibble rs n ih

theorem mono (hPQ : ∀ a, P a → Q a) (h : Nibbled cfg P as) : Nibbled cfg Q as := by
  induction h with
  | nil => exact .nil
  | cons ha _ ih => exact .cons (hPQ _ ha) ih
  | nibble rs n _ ih => exact .nibble rs n ih

theorem singleton {a : Action} (h : P a) : Nibbled cfg P [a] := .cons h .nil

/-- What holds of the actions `P` allows and of those of every nibble holds of the whole list. -/
theorem forall_mem (hP : ∀ a, P a → Q a) (hn : ∀ rs n, ∀ a ∈ sendNibbleActions cfg rs n, Q a) (h : Nibbled cfg P as) :
    ∀ a ∈ as, Q a := by
  induction h with
  | nil => simp
  | cons ha _ ih => exact List.forall_mem_cons.2 ⟨hP _ ha, ih⟩
  | nibble rs n _ ih => exact List.forall_mem_append.2 ⟨hn rs n, ih⟩

end Nibbled

section
variable (cfg : Config)

theorem sendByteActions_nibbled (rs : RegSel) (v : Byte) : Nibbled cfg Action.isPause (sendByteActions cfg rs v) := by
  have hlow : Nibbled cfg Action.isPause (sendNibbleActions cfg rs (lowNibble v) ++ []) := .nibble rs _ .nil
  rw [List.append_nil] at hlow
  exact .cons trivial (.nibble rs _ hlow)

theorem putStringActions_nibbled (str : List Byte) : Nibbled cfg Action.isPause (putStringActions cfg str) := by
  induction str with
  | nil => exact .nil
  | cons c cs ih => exact (sendByteActions_nibbled cfg .data c).append ih

theorem putCommandActions_nibbled (v : Byte) : Nibbled cfg Action.isDriver (putCommandActions cfg v) :=
  (sendByteActions_nibbled cfg .command v).mono fun _ => Action.isPause.isDriver

theorem gotoActions_nibbled (c l : Nat) : Nibbled cfg Action.isDriver (gotoActions cfg c l) := by
  unfold gotoActions
  split
  · exact (putCommandActions_nibbled cfg _).append (.cons trivial (.cons trivial .nil))
  · exact .singleton trivial

theorem writeAtActions_nibbled (c l : Nat) (str : List Byte) : Nibbled cfg Action.isDriver (writeAtActions cfg c l str) :=
  (gotoActions_nibbled cfg c l).append ((putStringActions_nibbled cfg str).mono fun _ => Action.isPause.isDriver)

theorem renderActions_nibbled (l : Nat) (str : List Byte) : Nibbled cfg Action.isDriver (renderActions cfg l str) :=
  writeAtActions_nibbled cfg 0 l (padLine cfg str)

theorem initActions_nibbled : Nibbled cfg Action.isDriver (initActions cfg) := by
  have hcmd := putCommandActions_nibbled cfg
  exact .cons trivial (((((hcmd _).append (hcmd _)).append (hcmd _)).append (hcmd _)).append (hcmd _) |>.append
    (gotoActions_nibbled cfg 0 0))

theorem bannerActions_nibbled : Nibbled cfg Action.isDriver (bannerActions cfg) :=
  ((writeAtActions_nibbled cfg 0 0 _).append (writeAtActions_nibbled cfg 0 1 _)).append (.singleton trivial)

theorem bootActions_nibbled : Nibbled cfg Action.isDriver (bootActions cfg) :=
  ((initActions_nibbled cfg).append (bannerActions_nibbled cfg)).append (putCommandActions_nibbled cfg _)

end

/-! ### The handlers -/

theorem Expansion.append_eq_ok {x y : Expansion} {as : List Action} :
    Expansion.append x y = .ok as ↔ ∃ bs cs, x = .ok bs ∧ y = .ok cs ∧ as = bs ++ cs := by
  cases x <;> cases y <;> simp [Expansion.append, eq_comm]

theorem renderSeconds_eq_ok {cfg : Config} {l v : Nat} {tail : List Byte} {as : List Action}
    (h : renderSeconds cfg l v tail = .ok as) : ∃ str, as = renderActions cfg l str := by
  unfold renderSeconds at h
  split at h
  · next str _ => cases h; exact ⟨str, rfl⟩
  · cases h

/-- The shape both adjusting handlers have: a part, the value of `ET` shown, a part. -/
theorem append_renderSeconds_eq_ok {cfg : Config} {v : Nat} {tail : List Byte} {bs cs as : List Action}
    (h : Expansion.append (.ok bs) (Expansion.append (renderSeconds cfg 0 v tail) (.ok cs)) = .ok as) :
    ∃ str, as = bs ++ (renderActions cfg 0 str ++ cs) := by
  simp only [Expansion.append_eq_ok] at h
  obtain ⟨_, _, ⟨⟩, ⟨_, _, hrender, ⟨⟩, rfl⟩, rfl⟩ := h
  obtain ⟨str, rfl⟩ := renderSeconds_eq_ok hrender
  exact ⟨str, rfl⟩

/-- The Increment and the Decrement handler: `ET` is written or not, shown, and the block waits (R71, R72). -/
theorem adjustActions_nibbled {cfg : Config} {may : Bool} {v : Seconds} {n d : Nat} {as : List Action}
    (h : Expansion.append (.ok (if may then [.setEt v] else []))
      (Expansion.append (renderSeconds cfg 0 n textSecExposure) (.ok [.wait d])) = .ok as) :
    Nibbled cfg (fun a => a.isDriver ∨ a = .setEt v) as := by
  obtain ⟨str, rfl⟩ := append_renderSeconds_eq_ok h
  have hshow := ((renderActions_nibbled cfg 0 str).append (.singleton (a := .wait d) trivial)).mono
    (Q := fun a => a.isDriver ∨ a = .setEt v) fun _ => .inl
  cases may with
  | true => exact .cons (.inr rfl) hshow
  | false => exact hshow

theorem countdownActions_nibbled {cfg : Config} {n : Nat} {as : List Action} (h : countdownActions cfg n = .ok as) :
    Nibbled cfg (fun a => a.isDriver ∨ ∃ v, a = .setTick v) as := by
  induction n generalizing as with
  | zero => cases h; exact .nil
  | succ n ih =>
    simp only [countdownActions, tickActions, Expansion.append_eq_ok] at h
    obtain ⟨bs, _, hbs, ⟨_, _, ⟨⟩, hrender, rfl⟩, rfl⟩ := h
    obtain ⟨str, rfl⟩ := renderSeconds_eq_ok hrender
    have htick := (renderActions_nibbled cfg 1 str).mono (Q := fun a => a.isDriver ∨ ∃ v, a = .setTick v) fun _ => .inl
    exact (ih hbs).append (.cons (.inl trivial) (.cons (.inr ⟨_, rfl⟩) htick))

/-- The Expose handler drives the relay on once, after its two renders, and off once, in its last action (R75). -/
theorem exposeActions_eq_ok {cfg : Config} {et : Seconds} {as : List Action} (h : exposeActions cfg et = .ok as) :
    ∃ pre mid, as = pre ++ .drive .relay 1 :: mid ++ [.drive .relay 0] ∧ Nibbled cfg Action.isDriver pre ∧
      Nibbled cfg (fun a => a.isDriver ∨ ∃ v, a = .setTick v) mid := by
  simp only [exposeActions, Expansion.append_eq_ok] at h
  obtain ⟨_, _, hrender, ⟨_, _, ⟨⟩, ⟨_, _, ⟨⟩, ⟨mid, _, hmid, ⟨⟩, rfl⟩, rfl⟩, rfl⟩, rfl⟩ := h
  obtain ⟨str, rfl⟩ := renderSeconds_eq_ok hrender
  exact ⟨renderActions cfg 0 str ++ renderActions cfg 1 [], .setTick 0 :: mid, by simp,
    (renderActions_nibbled cfg 0 str).append (renderActions_nibbled cfg 1 []),
    .cons (.inr ⟨0, rfl⟩) (countdownActions_nibbled hmid)⟩

theorem handlerActions_nibbled {cfg : Config} {et : Seconds} {z : Zone} {as : List Action}
    (h : handlerActions cfg et z = .ok as) : Nibbled cfg (Action.inHandler cfg et z) as := by
  cases z with
  | idle => cases h; exact .singleton rfl
  | increment => exact adjustActions_nibbled h
  | decrement => exact adjustActions_nibbled h
  | reset =>
    cases h
    have driver : ∀ {bs}, Nibbled cfg Action.isDriver bs → Nibbled cfg (Action.inHandler cfg et .reset) bs :=
      fun k => k.mono fun _ => .inl
    have hclear := driver (putCommandActions_nibbled cfg cfg.cmdClear)
    have hshow := driver (writeAtActions_nibbled cfg 0 0 textReset)
    have hwrite : Nibbled cfg (Action.inHandler cfg et .reset) [.wait cfg.tResetMsg, .setEt cfg.etReset] :=
      .cons (.inl trivial) (.singleton (.inr rfl))
    exact (((hclear.append hshow).append hwrite).append (driver (bannerActions_nibbled cfg))).append hclear
  | expose =>
    obtain ⟨pre, mid, rfl, hpre, hmid⟩ := exposeActions_eq_ok h
    have hpre' : Nibbled cfg (Action.inHandler cfg et .expose) pre := hpre.mono fun _ => .inl
    have hmid' : Nibbled cfg (Action.inHandler cfg et .expose) mid :=
      hmid.mono fun a ha => by
        rcases ha with hd | hv
        · exact .inl hd
        · exact .inr (.inr (.inr hv))
    exact (hpre'.append (.cons (.inr (.inl rfl)) hmid')).append (.singleton (.inr (.inr (.inl rfl))))

theorem handlerActions_ne_nil {cfg : Config} {et : Seconds} {z : Zone} {as : List Action}
    (h : handlerActions cfg et z = .ok as) : as ≠ [] := by
  cases z with
  | idle => cases h; simp [idleActions]
  | increment | decrement => obtain ⟨str, rfl⟩ := append_renderSeconds_eq_ok h; simp
  | reset => cases h; simp [resetActions]
  | expose => obtain ⟨pre, mid, rfl, -, -⟩ := exposeActions_eq_ok h; simp

/-! ## The levels a list leaves -/

theorem levelAfter_of_not_driven {l : Line} {as : List Action} (h : ∀ a ∈ as, ∀ v, a ≠ .drive l v) (x : Nibble) :
    levelAfter l x as = x := by
  induction as generalizing x with
  | nil => rfl
  | cons a as ih =>
    obtain ⟨ha, has⟩ := List.forall_mem_cons.1 h
    rw [levelAfter_cons, ih has]
    cases a with
    | drive l' v => exact if_neg fun hl => ha v (by rw [hl])
    | _ => rfl

/-- A list that leaves a line at another level has driven it there. -/
theorem drive_mem_of_levelAfter {l : Line} {x y : Nibble} {as : List Action} (h : levelAfter l x as = y) (hxy : x ≠ y) :
    .drive l y ∈ as := by
  induction as generalizing x with
  | nil => exact absurd h hxy
  | cons a as ih =>
    rw [levelAfter_cons] at h
    by_cases hy : levelAfter l x [a] = y
    · cases a with
      | drive l' v =>
        by_cases hl : l' = l
        · subst hl
          have hv : v = y := by simpa [levelAfter] using hy
          simp [hv]
        · exact absurd (by simpa [levelAfter, hl] using hy) hxy
      | _ => exact absurd hy hxy
    · exact List.mem_cons_of_mem a (ih h hy)

/-- Within a nibble `E` is up only between its two drives (R51). -/
theorem sendNibbleActions_take_e {cfg : Config} {rs : RegSel} {n : Nibble} {k : Nat} (hk : k ≤ 8)
    (he : levelAfter .e 0 ((sendNibbleActions cfg rs n).take k) ≠ 0) :
    .drive .e 1 ∈ (sendNibbleActions cfg rs n).take k ∧ .drive .e 0 ∉ (sendNibbleActions cfg rs n).take k := by
  interval_cases k <;> simp_all [sendNibbleActions, levelAfter]

section
variable {cfg : Config} {P : Action → Prop} {as : List Action} (hP : ∀ a, P a → ∀ v, a ≠ .drive .e v)
include hP

theorem levelAfter_cons_of_not_drivesE {a : Action} (ha : P a) (x : Nibble) (bs : List Action) :
    levelAfter .e x (a :: bs) = levelAfter .e x bs := by
  rw [levelAfter_cons, levelAfter_of_not_driven (as := [a]) (by simpa using hP a ha)]

theorem Nibbled.levelAfter_e (h : Nibbled cfg P as) : levelAfter .e 0 as = 0 := by
  induction h with
  | nil => rfl
  | cons ha _ ih => rw [levelAfter_cons_of_not_drivesE hP ha, ih]
  | nibble rs n _ ih => exact ih

/-- In a list of whole nibbles `E` is up only within one of them, between its two drives. -/
theorem Nibbled.within_of_levelAfter_e (h : Nibbled cfg P as) (k : Nat) (he : levelAfter .e 0 (as.take k) ≠ 0) :
    ∃ pre rs n done, as.take k = pre ++ done ∧ done <+: sendNibbleActions cfg rs n ∧ .drive .e 1 ∈ done ∧
      .drive .e 0 ∉ done := by
  induction h generalizing k with
  | nil => simp [levelAfter] at he
  | @cons a as ha _ ih =>
    cases k with
    | zero => simp [levelAfter] at he
    | succ k =>
      rw [List.take_succ_cons, levelAfter_cons_of_not_drivesE hP ha] at he
      obtain ⟨pre, rs, n, done, htake, hdone⟩ := ih k he
      exact ⟨a :: pre, rs, n, done, by rw [List.take_succ_cons, htake, List.cons_append], hdone⟩
  | @nibble as rs n _ ih =>
    have hlen : (sendNibbleActions cfg rs n).length = 8 := rfl
    by_cases hk : k ≤ 8
    · have htake : (sendNibbleActions cfg rs n ++ as).take k = (sendNibbleActions cfg rs n).take k :=
        List.take_append_of_le_length hk
      rw [htake] at he ⊢
      exact ⟨[], rs, n, _, rfl, List.take_prefix _ _, sendNibbleActions_take_e hk he⟩
    · rw [List.take_append, List.take_of_length_le (by omega), hlen] at he ⊢
      obtain ⟨pre, rs', n', done, htake, hdone⟩ := ih (k - 8) he
      exact ⟨sendNibbleActions cfg rs n ++ pre, rs', n', done, by rw [htake, List.append_assoc], hdone⟩

end

/-! ## The lists of the phases -/

/-- The actions of a phase beside its nibbles (R20). -/
def Action.inPhase (cfg : Config) (et : Seconds) : Seq → Action → Prop
  | .boot _, a     => a.isDriver
  | .poll _, a     => a = .sample ∨ a = .classify ∨ a = .note .sampleOutOfCalibratedBand
  | .handle z _, a => a.inHandler cfg et z

/-- An action that keeps what the block's own program keeps: a level its line admits, a value of `ET` in its domain. -/
def Action.isSafe (cfg : Config) : Action → Prop
  | .drive l v => levelAdmitted l v = true
  | .setEt v   => etInDomain cfg v
  | .wait _ | .sample | .note _ | .classify | .setCur _ _ | .setTick _ => True

theorem pollActions_nibbled (cfg : Config) (et : Seconds) (k : Nat) (x : Option Nat) :
    Nibbled cfg (Action.inPhase cfg et (.poll k)) (pollActions x) := by
  refine .cons (.inl rfl) (.cons (.inr (.inl rfl)) ?_)
  split
  · exact .singleton (.inr (.inr rfl))
  · exact .nil

theorem phaseActions_nibbled {cfg : Config} {q : Seq} {et : Seconds} {x : Option Nat} {as : List Action}
    (h : phaseActions cfg q et x = .ok as) : Nibbled cfg (Action.inPhase cfg et q) as := by
  cases q with
  | boot k => cases h; exact bootActions_nibbled cfg
  | poll k => cases h; exact pollActions_nibbled cfg et k x
  | handle z k => exact handlerActions_nibbled h

theorem phaseActions_ne_nil {cfg : Config} {q : Seq} {et : Seconds} {x : Option Nat} {as : List Action}
    (h : phaseActions cfg q et x = .ok as) : as ≠ [] := by
  cases q with
  | boot k => cases h; simp [bootActions, initActions]
  | poll k => cases h; simp [pollActions]
  | handle z k => exact handlerActions_ne_nil h

theorem runnable_iff {cfg : Config} :
    runnable cfg = true ↔ configOk cfg = true ∧ etInDomain cfg cfg.etReset ∧ cfg.etMax.toNat ≤ 99 := by
  simp [runnable, etInDomain, and_assoc]

theorem incremented_inDomain {cfg : Config} {et : Seconds} (h : etInDomain cfg et) : etInDomain cfg (incremented cfg et) := by
  obtain ⟨hmin, hmax⟩ := h
  unfold incremented mayIncrement etInDomain
  split
  · next hlt => have := of_decide_eq_true hlt; constructor <;> bv_omega
  · exact ⟨hmin, hmax⟩

theorem decremented_inDomain {cfg : Config} {et : Seconds} (h : etInDomain cfg et) : etInDomain cfg (decremented cfg et) := by
  obtain ⟨hmin, hmax⟩ := h
  unfold decremented mayDecrement etInDomain
  split
  · next hlt => have := of_decide_eq_true hlt; constructor <;> bv_omega
  · exact ⟨hmin, hmax⟩

theorem Action.isDriver.isSafe {cfg : Config} {a : Action} (h : a.isDriver) : a.isSafe cfg := by
  cases a <;> simp_all [Action.isDriver, Action.isSafe]

theorem Action.isDriver.ne_drive {a : Action} (h : a.isDriver) (l : Line) (v : Nibble) : a ≠ .drive l v := by
  rintro rfl; exact h

theorem Action.isDriver.total {a : Action} (h : a.isDriver) : a.total = true := by
  cases a <;> simp_all [Action.isDriver, Action.total]

theorem Action.inHandler.isSafe {cfg : Config} {et : Seconds} {z : Zone} {a : Action} (hr : runnable cfg = true)
    (het : etInDomain cfg et) (h : a.inHandler cfg et z) : a.isSafe cfg := by
  cases z with
  | idle => cases h; rfl
  | increment =>
    rcases h with hd | rfl
    · exact hd.isSafe
    · exact incremented_inDomain het
  | decrement =>
    rcases h with hd | rfl
    · exact hd.isSafe
    · exact decremented_inDomain het
  | reset =>
    rcases h with hd | rfl
    · exact hd.isSafe
    · exact (runnable_iff.1 hr).2.1
  | expose =>
    rcases h with hd | rfl | rfl | ⟨v, rfl⟩
    · exact hd.isSafe
    · rfl
    · rfl
    · trivial

/-- A handler reads no sample beside its nibbles, and drives no line but the relay. -/
theorem Action.inHandler.total_and_ne_drive {cfg : Config} {et : Seconds} {z : Zone} {a : Action} (h : a.inHandler cfg et z) :
    a.total = true ∧ ∀ l v, l ≠ .relay → a ≠ .drive l v := by
  have driver (hd : a.isDriver) : a.total = true ∧ ∀ l v, l ≠ .relay → a ≠ .drive l v :=
    ⟨hd.total, fun l v _ => hd.ne_drive l v⟩
  have relay (x : Nibble) : (Action.drive .relay x).total = true ∧ ∀ l v, l ≠ .relay → Action.drive .relay x ≠ .drive l v :=
    ⟨rfl, fun l v hl he => hl (by cases he; rfl)⟩
  cases z with
  | idle => cases h; exact relay 0
  | increment | decrement | reset =>
    rcases h with hd | rfl
    · exact driver hd
    · exact ⟨rfl, by simp⟩
  | expose =>
    rcases h with hd | rfl | rfl | ⟨v, rfl⟩
    · exact driver hd
    · exact relay 1
    · exact relay 0
    · exact ⟨rfl, by simp⟩

theorem Action.inPhase.isSafe {cfg : Config} {et : Seconds} {q : Seq} {a : Action} (hr : runnable cfg = true)
    (het : etInDomain cfg et) (h : a.inPhase cfg et q) : a.isSafe cfg := by
  cases q with
  | boot k => exact Action.isDriver.isSafe h
  | poll k => rcases h with rfl | rfl | rfl <;> trivial
  | handle z k => exact Action.inHandler.isSafe hr het h

theorem Action.inPhase.ne_drive_e {cfg : Config} {et : Seconds} {q : Seq} {a : Action} (h : a.inPhase cfg et q) (v : Nibble) :
    a ≠ .drive .e v := by
  cases q with
  | boot k => exact Action.isDriver.ne_drive h .e v
  | poll k => rcases h with rfl | rfl | rfl <;> simp
  | handle z k => exact (Action.inHandler.total_and_ne_drive h).2 .e v (by decide)

theorem Action.inPhase.total {cfg : Config} {et : Seconds} {q : Seq} {a : Action} (hq : ∀ k, q ≠ .poll k)
    (h : a.inPhase cfg et q) : a.total = true := by
  cases q with
  | boot k => exact Action.isDriver.total h
  | poll k => exact absurd rfl (hq k)
  | handle z k => exact (Action.inHandler.total_and_ne_drive h).1

/-- Only the Expose handler drives the relay to another level than 0 (R14, R75). -/
theorem Action.inPhase.ne_relayOn {cfg : Config} {et : Seconds} {q : Seq} {a : Action} (hq : ∀ k, q ≠ .handle .expose k)
    (h : a.inPhase cfg et q) {v : Nibble} (hv : v ≠ 0) : a ≠ .drive .relay v := by
  cases q with
  | boot k => exact Action.isDriver.ne_drive h _ _
  | poll k => rcases h with rfl | rfl | rfl <;> simp
  | handle z k =>
    cases z with
    | idle => cases h; simpa using hv.symm
    | increment | decrement | reset =>
      rcases h with hd | rfl
      · exact hd.ne_drive _ _
      · simp
    | expose => exact absurd rfl (hq k)

theorem sendNibbleActions_isSafe (cfg : Config) (rs : RegSel) (n : Nibble) : ∀ a ∈ sendNibbleActions cfg rs n, a.isSafe cfg := by
  cases rs <;> simp [sendNibbleActions, Action.isSafe, levelAdmitted, levelOfBit, rsBit]

theorem sendNibbleActions_ne_relay (cfg : Config) (rs : RegSel) (n v : Nibble) :
    ∀ a ∈ sendNibbleActions cfg rs n, a ≠ .drive .relay v := by
  simp [sendNibbleActions]

/-! ### Every phase has its list -/

theorem Expansion.append_ok {x y : Expansion} (hx : ∃ bs, x = .ok bs) (hy : ∃ cs, y = .ok cs) :
    ∃ as, Expansion.append x y = .ok as := by
  obtain ⟨bs, rfl⟩ := hx
  obtain ⟨cs, rfl⟩ := hy
  exact ⟨bs ++ cs, rfl⟩

theorem renderSeconds_ok (cfg : Config) (l : Nat) {v : Nat} (tail : List Byte) (hv : v ≤ 99) :
    ∃ as, renderSeconds cfg l v tail = .ok as := by
  have hdec : ∃ ds, decText v = some ds := by
    unfold decText
    rw [if_neg (by omega)]
    split <;> exact ⟨_, rfl⟩
  obtain ⟨ds, hds⟩ := hdec
  exact ⟨renderActions cfg l (ds ++ tail), by simp [renderSeconds, secondsText, hds]⟩

theorem countdownActions_ok (cfg : Config) {n : Nat} (hn : n ≤ 99) : ∃ as, countdownActions cfg n = .ok as := by
  induction n with
  | zero => exact ⟨[], rfl⟩
  | succ n ih =>
    exact Expansion.append_ok (ih (by omega)) (Expansion.append_ok ⟨_, rfl⟩ (renderSeconds_ok cfg 1 _ hn))

theorem toNat_le_of_inDomain {cfg : Config} {et : Seconds} (hmax : cfg.etMax.toNat ≤ 99) (h : etInDomain cfg et) :
    et.toNat ≤ 99 := h.2.trans hmax

/-- With `ET` in a domain that `dec` covers no handler faults (R61, R79). -/
theorem handlerActions_ok {cfg : Config} {et : Seconds} (hmax : cfg.etMax.toNat ≤ 99) (het : etInDomain cfg et) (z : Zone) :
    ∃ as, handlerActions cfg et z = .ok as := by
  have shown {v : Seconds} (l : Nat) (tail : List Byte) (hv : etInDomain cfg v) :=
    renderSeconds_ok cfg l tail (toNat_le_of_inDomain hmax hv)
  cases z with
  | idle | reset => exact ⟨_, rfl⟩
  | increment =>
    exact Expansion.append_ok ⟨_, rfl⟩ (Expansion.append_ok (shown 0 _ (incremented_inDomain het)) ⟨_, rfl⟩)
  | decrement =>
    exact Expansion.append_ok ⟨_, rfl⟩ (Expansion.append_ok (shown 0 _ (decremented_inDomain het)) ⟨_, rfl⟩)
  | expose =>
    have hcount := countdownActions_ok cfg (toNat_le_of_inDomain hmax het)
    exact Expansion.append_ok (shown 0 _ het) (Expansion.append_ok ⟨_, rfl⟩ (Expansion.append_ok ⟨_, rfl⟩
      (Expansion.append_ok hcount ⟨_, rfl⟩)))

/-- Under a runnable configuration every phase has its list (R26, R61). -/
theorem phaseActions_ok {cfg : Config} {et : Seconds} (hr : runnable cfg = true) (het : etInDomain cfg et) (q : Seq)
    (x : Option Nat) : ∃ as, phaseActions cfg q et x = .ok as := by
  obtain ⟨-, -, hmax⟩ := runnable_iff.1 hr
  cases q with
  | boot k | poll k => exact ⟨_, rfl⟩
  | handle z k => exact handlerActions_ok hmax het z

/-! ### What every phase's list keeps -/

/-- The Expose handler drives the relay off in its last action only. -/
theorem exposeActions_relayOff_not_mem_take {cfg : Config} {et : Seconds} {as : List Action} (h : exposeActions cfg et = .ok as)
    {k : Nat} (hk : k < as.length) : .drive .relay 0 ∉ as.take k := by
  obtain ⟨pre, mid, rfl, hpre, hmid⟩ := exposeActions_eq_ok h
  have hnibble (rs n) := sendNibbleActions_ne_relay cfg rs n 0
  have hbefore := hpre.forall_mem (fun _ ha => ha.ne_drive .relay 0) hnibble
  have hduring : ∀ a ∈ mid, a ≠ .drive .relay 0 := hmid.forall_mem (fun a ha => by
    rcases ha with hd | ⟨v, rfl⟩
    · exact hd.ne_drive .relay 0
    · simp) hnibble
  have hbody : Action.drive .relay 0 ∉ pre ++ .drive .relay 1 :: mid := by
    intro hm
    rcases List.mem_append.1 hm with hm | hm
    · exact hbefore _ hm rfl
    · rcases List.mem_cons.1 hm with hm | hm
      · exact absurd hm (by decide)
      · exact hduring _ hm rfl
  rw [List.length_append, List.length_singleton, Nat.lt_succ_iff] at hk
  rw [List.take_append_of_le_length hk]
  exact fun hm => hbody (List.mem_of_mem_take hm)

section
variable {cfg : Config} {q : Seq} {et : Seconds} {x : Option Nat} {as : List Action}

theorem phaseActions_isSafe (hr : runnable cfg = true) (het : etInDomain cfg et) (h : phaseActions cfg q et x = .ok as) :
    ∀ a ∈ as, a.isSafe cfg :=
  (phaseActions_nibbled h).forall_mem (fun _ ha => ha.isSafe hr het) (sendNibbleActions_isSafe cfg)

theorem phaseActions_total (hq : ∀ k, q ≠ .poll k) (h : phaseActions cfg q et x = .ok as) : ∀ a ∈ as, a.total = true :=
  (phaseActions_nibbled h).forall_mem (fun _ ha => ha.total hq) fun rs n => List.all_eq_true.1 (sendNibble_total cfg rs n)

theorem phaseActions_levelAfter_e (h : phaseActions cfg q et x = .ok as) : levelAfter .e 0 as = 0 :=
  (phaseActions_nibbled h).levelAfter_e fun _ ha v => ha.ne_drive_e v

theorem phaseActions_ne_relayOn (hq : ∀ k, q ≠ .handle .expose k) (h : phaseActions cfg q et x = .ok as) {v : Nibble}
    (hv : v ≠ 0) : ∀ a ∈ as, a ≠ .drive .relay v :=
  (phaseActions_nibbled h).forall_mem (fun _ ha => ha.ne_relayOn hq hv) fun rs n => sendNibbleActions_ne_relay cfg rs n v

/-- Outside the Expose handler the relay is never left on. -/
theorem phaseActions_take_levelAfter_relay (hq : ∀ k, q ≠ .handle .expose k) (h : phaseActions cfg q et x = .ok as) (k : Nat) :
    levelAfter .relay 0 (as.take k) = 0 := by
  by_contra hv
  exact phaseActions_ne_relayOn hq h hv _ (List.mem_of_mem_take (drive_mem_of_levelAfter rfl (Ne.symm hv))) rfl

/-- No phase leaves the relay on at its end. -/
theorem phaseActions_levelAfter_relay (h : phaseActions cfg q et x = .ok as) : levelAfter .relay 0 as = 0 := by
  by_cases hq : ∃ k, q = .handle .expose k
  · obtain ⟨k, rfl⟩ := hq
    obtain ⟨pre, mid, rfl, -, -⟩ := exposeActions_eq_ok h
    rw [levelAfter_append]
    rfl
  · have htake := phaseActions_take_levelAfter_relay (not_exists.1 hq) h as.length
    rwa [List.take_length] at htake

end

/-! ## The sequencer -/

section
variable (s : State)

theorem State.atPhaseStart_eq : s.atPhaseStart = s.latch ∨ s.atPhaseStart = s := by
  unfold State.atPhaseStart
  split
  · exact .inl rfl
  · exact .inr rfl

theorem State.atPhaseStart_of_start {s : State} (h : s.seq.index = 0) : s.atPhaseStart = s.latch := if_pos h
theorem State.atPhaseStart_within {s : State} (h : s.seq.index ≠ 0) : s.atPhaseStart = s := if_neg h

/-- The start of a phase changes nothing but `phaseEt`. -/
theorem State.atPhaseStart_field {α : Type} (f : State → α) (hf : f s.latch = f s) : f s.atPhaseStart = f s := by
  rcases s.atPhaseStart_eq with h | h <;> rw [h]
  exact hf

@[simp] theorem State.atPhaseStart_cfg : s.atPhaseStart.cfg = s.cfg := s.atPhaseStart_field State.cfg rfl
@[simp] theorem State.atPhaseStart_sample : s.atPhaseStart.sample = s.sample := s.atPhaseStart_field State.sample rfl
@[simp] theorem State.atPhaseStart_zone : s.atPhaseStart.zone = s.zone := s.atPhaseStart_field State.zone rfl
@[simp] theorem State.atPhaseStart_seq : s.atPhaseStart.seq = s.seq := s.atPhaseStart_field State.seq rfl
@[simp] theorem State.atPhaseStart_script : s.atPhaseStart.script = s.script := s.atPhaseStart_field State.script rfl
@[simp] theorem State.atPhaseStart_env : s.atPhaseStart.env = s.env := s.atPhaseStart_field State.env rfl
@[simp] theorem State.atPhaseStart_lineLevel (l : Line) : s.atPhaseStart.lineLevel l = s.lineLevel l :=
  s.atPhaseStart_field (fun t => t.lineLevel l) (by cases l <;> rfl)

@[simp] theorem Seq.index_atIndex (q : Seq) (k : Nat) : (q.atIndex k).index = k := by cases q <;> rfl
@[simp] theorem Seq.atIndex_atIndex (q : Seq) (j k : Nat) : (q.atIndex j).atIndex k = q.atIndex k := by cases q <;> rfl

end

/-- A phase's list does not depend on the index, and only POLL's depends on the sample. -/
theorem phaseActions_atIndex (cfg : Config) (q : Seq) (k : Nat) (et : Seconds) (x : Option Nat) :
    phaseActions cfg (q.atIndex k) et x = phaseActions cfg q et x := by cases q <;> rfl

theorem phaseActions_sample {q : Seq} (hq : ∀ k, q ≠ .poll k) (cfg : Config) (et : Seconds) (x y : Option Nat) :
    phaseActions cfg q et x = phaseActions cfg q et y := by
  cases q with
  | boot k | handle z k => rfl
  | poll k => exact absurd rfl (hq k)

theorem State.phaseList_eq (s : State) : s.phaseList = phaseActions s.cfg s.seq s.atPhaseStart.phaseEt s.sample := by
  simp [State.phaseList, State.runningList]

/-- Without a script and without a reset a step is a step of the block's own program. -/
theorem step_eq_programStep {s : State} (hcfg : configOk s.cfg = true) (hreset : s.env.reset = none) (hscript : s.script = []) :
    step s = programStep s := by
  simp [step, hcfg, hreset, hscript]

theorem programStep_of_action {s : State} {as : List Action} {a : Action} (hlist : s.phaseList = .ok as)
    (ha : as[s.seq.index]? = some a) : programStep s = andThen (perform a s.atPhaseStart) (advance s.seq.index) := by
  simp [programStep, hlist, ha]

theorem advance_within {u : State} {bs : List Action} {k : Nat} (hlist : u.runningList = .ok bs) (hk : k + 1 < bs.length) :
    advance k u = .next (u.setSeq (u.seq.atIndex (k + 1))) := by
  simp [advance, hlist, hk]

theorem advance_past {u : State} {bs : List Action} {k : Nat} (hlist : u.runningList = .ok bs) (hk : bs.length ≤ k + 1) :
    advance k u = leavePhase u := by
  simp [advance, hlist, Nat.not_lt.2 hk]

theorem leavePhase_of_not_poll {u : State} (hq : ∀ k, u.seq ≠ .poll k) : leavePhase u = .next (u.setSeq (.poll 0)) := by
  unfold leavePhase
  split
  · rfl
  · rfl
  · next k hk => exact absurd hk (hq k)

theorem leavePhase_of_poll {u : State} {k : Nat} {z : Zone} (hq : u.seq = .poll k) (hz : u.zone = some (zoneCode z)) :
    leavePhase u = .next (enterHandler z u) := by
  simp [leavePhase, hq, dispatch, hz]

/-- The list that is under way stays the same while BOOT's or a handler's actions are performed. -/
theorem runningList_of_perform {s u : State} {a : Action} (hq : ∀ k, s.seq ≠ .poll k) (h : perform a s.atPhaseStart = .next u) :
    u.runningList = s.phaseList := by
  obtain ⟨hsur, hpos, -⟩ := perform_frame h
  rw [State.phaseList_eq, State.runningList, hsur.cfg, hpos.1, hpos.2, State.atPhaseStart_cfg, State.atPhaseStart_seq]
  exact phaseActions_sample hq _ _ _ _

/-- Within a phase nothing is latched, and the list under way is the phase's list. -/
@[simp] theorem State.atPhaseStart_setSeq_succ (u : State) (k : Nat) :
    (u.setSeq (u.seq.atIndex (k + 1))).atPhaseStart = u.setSeq (u.seq.atIndex (k + 1)) :=
  State.atPhaseStart_within (by simp)

@[simp] theorem State.phaseList_setSeq_succ (u : State) (k : Nat) :
    (u.setSeq (u.seq.atIndex (k + 1))).phaseList = u.runningList := by
  rw [State.phaseList_eq, State.atPhaseStart_setSeq_succ]
  exact phaseActions_atIndex _ _ _ _ _

/-! ## The block's own program keeps its invariant -/

/-- What every action of the block's own program keeps, wherever it stands (R26). -/
structure OwnRegisters (s : State) : Prop where
  noScript : s.script = []
  config   : runnable s.cfg = true
  samples  : samplesInRange s
  et       : etInDomain s.cfg s.et
  write    : s.rw = 0

theorem RunsOwnProgram.ownRegisters {s : State} (h : RunsOwnProgram s) : OwnRegisters s :=
  ⟨h.noScript, h.config, h.samples, h.et, h.write⟩

theorem OwnRegisters.atPhaseStart {s : State} (h : OwnRegisters s) : OwnRegisters s.atPhaseStart := by
  rcases s.atPhaseStart_eq with he | he <;> rw [he]
  · exact ⟨h.noScript, h.config, h.samples, h.et, h.write⟩
  · exact h

theorem perform_samples {a : Action} {s t : State} (h : perform a s = .next t) (hs : samplesInRange s) : samplesInRange t := by
  have keeps {u : State} (hu : u.env.samples = s.env.samples) (hc : u.cfg = s.cfg) : samplesInRange u := by
    unfold samplesInRange; rw [hu, hc]; exact hs
  cases a with
  | sample =>
    rcases samplePrim_cases s with ⟨-, hp⟩ | ⟨v, vs, hv, -, hp⟩ | ⟨v, vs, -, -, hp⟩ <;>
      rw [perform, hp] at h <;> cases h
    · exact keeps rfl rfl
    · intro w hw
      exact hs w (by rw [hv]; exact List.mem_cons_of_mem v hw)
  | classify =>
    rcases classifyPrim_cases s with ⟨-, hp⟩ | ⟨v, -, hp⟩ <;> rw [perform, hp] at h <;> cases h
    exact keeps rfl rfl
  | _ => exact keeps (perform_quantizer h rfl).2.2 (perform_frame h).1.cfg

theorem eq_of_levelOfBit_eq {b c : Bit} (h : levelOfBit b = levelOfBit c) : b = c := by
  revert b c; decide

theorem Action.isSafe.levelAfter_rw {cfg : Config} {a : Action} (h : a.isSafe cfg) : levelAfter .rw 0 [a] = 0 := by
  cases a with
  | drive l v => cases l <;> simp_all [Action.isSafe, levelAdmitted, levelAfter]
  | _ => rfl

theorem OwnRegisters.perform {a : Action} {s t : State} (hs : OwnRegisters s) (ha : a.isSafe s.cfg)
    (h : perform a s = .next t) : OwnRegisters t := by
  obtain ⟨hsur, -, -⟩ := perform_frame h
  refine ⟨hsur.script.trans hs.noScript, hsur.cfg ▸ hs.config, perform_samples h hs.samples, ?_, ?_⟩
  · rw [hsur.cfg]
    by_cases hw : ∃ v, a = .setEt v
    · obtain ⟨v, rfl⟩ := hw
      cases h
      exact ha
    · rw [perform_et h (not_exists.1 hw)]
      exact hs.et
  · have hrw : levelOfBit t.rw = levelAfter .rw (levelOfBit s.rw) [a] :=
      perform_lineLevel h .rw (by rintro v rfl; exact ha)
    rw [hs.write] at hrw
    exact eq_of_levelOfBit_eq (hrw.trans ha.levelAfter_rw)

/-- At the start of a phase the relay and `E` are at rest, and the phase has its list. -/
theorem OwnRegisters.runs_of_start {s : State} (hs : OwnRegisters s) (hindex : s.seq.index = 0) (hrelay : s.relay = 0)
    (he : s.e = 0) : RunsOwnProgram s := by
  have hphaseEt : etInDomain s.cfg s.atPhaseStart.phaseEt := by rw [State.atPhaseStart_of_start hindex]; exact hs.et
  obtain ⟨as, has⟩ := phaseActions_ok hs.config hphaseEt s.seq s.sample
  refine ⟨hs.noScript, hs.config, hs.samples, hs.et, hphaseEt, hs.write, ?_, as, s.phaseList_eq.trans has, ?_, ?_, ?_⟩
  · cases hq : s.seq <;> simp_all [pollRegistersWritten, Seq.index]
  · rw [hindex]
    exact List.length_pos_iff.2 (phaseActions_ne_nil has)
  · rw [hindex, hrelay]; rfl
  · rw [hindex, he]; rfl

/-- The block after a reset is at the start of BOOT with every line at rest (R93). -/
theorem takeReset_runs {u : State} (hscript : u.script = []) (hcfg : runnable u.cfg = true) (hsamples : samplesInRange u) :
    RunsOwnProgram (takeReset u) :=
  OwnRegisters.runs_of_start ⟨hscript, hcfg, hsamples, (runnable_iff.1 hcfg).2.1, rfl⟩ rfl rfl rfl

/-- Within a phase the position is one further when its action is performed. -/
theorem OwnRegisters.runs_of_within {u : State} {bs : List Action} {k : Nat} (hu : OwnRegisters u)
    (hphaseEt : etInDomain u.cfg u.phaseEt) (hlist : u.runningList = .ok bs) (hk : k + 1 < bs.length)
    (hwritten : pollRegistersWritten (u.setSeq (u.seq.atIndex (k + 1))))
    (hrelay : levelOfBit u.relay = levelAfter .relay 0 (bs.take (k + 1)))
    (he : levelOfBit u.e = levelAfter .e 0 (bs.take (k + 1))) : RunsOwnProgram (u.setSeq (u.seq.atIndex (k + 1))) := by
  refine ⟨hu.noScript, hu.config, hu.samples, hu.et, by simpa using hphaseEt, hu.write, hwritten, bs,
    (u.phaseList_setSeq_succ k).trans hlist, ?_⟩
  simpa using ⟨hk, hrelay, he⟩

/-- A step within BOOT or a handler: the action is performed, and the levels stay those of the position. -/
theorem RunsOwnProgram.programStep_of_not_poll {s : State} (hs : RunsOwnProgram s) (hq : ∀ k, s.seq ≠ .poll k) :
    ∃ t, programStep s = .next t ∧ RunsOwnProgram t := by
  obtain ⟨as, hlist, hindex, hrelay, he⟩ := hs.position
  have hphase : phaseActions s.cfg s.seq s.atPhaseStart.phaseEt s.sample = .ok as := s.phaseList_eq.symm.trans hlist
  have ha : as[s.seq.index]? = some as[s.seq.index] := List.getElem?_eq_getElem hindex
  have hsafe := phaseActions_isSafe hs.config hs.phaseEt hphase _ (List.getElem_mem hindex)
  obtain ⟨u, hu⟩ := perform_total (phaseActions_total hq hphase _ (List.getElem_mem hindex)) s.atPhaseStart
  obtain ⟨hsur, hpos, -⟩ := perform_frame hu
  have hown : OwnRegisters u := hs.ownRegisters.atPhaseStart.perform (by simpa using hsafe) hu
  have hrunning : u.runningList = .ok as := (runningList_of_perform hq hu).trans hlist
  have hseq : u.seq = s.seq := by simpa using hpos.1
  have htake : as.take (s.seq.index + 1) = as.take s.seq.index ++ [as[s.seq.index]] := by simp
  have levels (l : Line) (x : Nibble) (hl : s.lineLevel l = levelAfter l x (as.take s.seq.index)) :
      u.lineLevel l = levelAfter l x (as.take (s.seq.index + 1)) := by
    have hdrive := perform_lineLevel hu l fun v hv => by rw [hv] at hsafe; exact hsafe
    rw [hdrive, State.atPhaseStart_lineLevel, hl, htake, levelAfter_append]
  rw [programStep_of_action hlist ha, hu, andThen_next]
  rcases Nat.lt_or_ge (s.seq.index + 1) as.length with hk | hk
  · refine ⟨_, advance_within hrunning hk, hown.runs_of_within ?_ hrunning hk ?_ (levels .relay 0 hrelay) (levels .e 0 he)⟩
    · rw [hsur.cfg, hpos.2, State.atPhaseStart_cfg]; exact hs.phaseEt
    · rw [hseq]
      cases hc : s.seq with
      | boot k | handle z k => trivial
      | poll k => exact absurd hc (hq k)
  · rw [advance_past hrunning hk, leavePhase_of_not_poll (by rwa [hseq])]
    have hwhole : as.take (s.seq.index + 1) = as := List.take_of_length_le hk
    have hrelay' := (levels .relay 0 hrelay).trans ((congrArg _ hwhole).trans (phaseActions_levelAfter_relay hphase))
    have he' := (levels .e 0 he).trans ((congrArg _ hwhole).trans (phaseActions_levelAfter_e hphase))
    exact ⟨_, rfl, OwnRegisters.runs_of_start ⟨hown.noScript, hown.config, hown.samples, hown.et, hown.write⟩ rfl
      (eq_of_levelOfBit_eq hrelay') (eq_of_levelOfBit_eq he')⟩

/-! ### POLL -/

theorem pollActions_not_driven (x : Option Nat) : ∀ a ∈ pollActions x, ∀ l v, a ≠ .drive l v := by
  unfold pollActions
  split <;> simp

theorem pollActions_take_levelAfter (x : Option Nat) (k : Nat) (l : Line) : levelAfter l 0 ((pollActions x).take k) = 0 :=
  levelAfter_of_not_driven (fun a ha v => pollActions_not_driven x a (List.mem_of_mem_take ha) l v) 0

theorem two_le_length_pollActions (x : Option Nat) : 2 ≤ (pollActions x).length := by simp [pollActions]

/-- At every position of POLL the lines that a phase may move are at rest. -/
theorem RunsOwnProgram.poll_atRest {s : State} {k : Nat} (hs : RunsOwnProgram s) (hq : s.seq = .poll k) :
    s.relay = 0 ∧ s.e = 0 := by
  obtain ⟨as, hlist, -, hrelay, he⟩ := hs.position
  have hlist' : pollActions s.sample = as := by simpa [State.phaseList_eq, hq, phaseActions] using hlist
  rw [← hlist', pollActions_take_levelAfter] at hrelay he
  exact ⟨eq_of_levelOfBit_eq hrelay, eq_of_levelOfBit_eq he⟩

theorem samplePrim_next {s : State} (hs : samplesInRange s) : ∃ u, samplePrim s = .next u ∧ u.sample.isSome = true := by
  rcases samplePrim_cases s with ⟨-, hp⟩ | ⟨v, vs, -, -, hp⟩ | ⟨v, vs, hv, hlt, -⟩
  · exact ⟨_, hp, rfl⟩
  · exact ⟨_, hp, rfl⟩
  · exact absurd (hs v (by simp [hv])) (Nat.not_le.2 hlt)

/-- At every position of POLL there is an action, it answers, and it writes the registers that the next position reads. -/
theorem RunsOwnProgram.poll_action {s : State} {k : Nat} (hs : RunsOwnProgram s) (hq : s.seq = .poll k) :
    ∃ a u, (pollActions s.sample)[k]? = some a ∧ perform a s.atPhaseStart = .next u ∧ u.sample.isSome = true ∧
      (1 ≤ k → ∃ z, u.zone = some (zoneCode z)) := by
  have hwritten := hs.registers
  simp only [pollRegistersWritten, hq] at hwritten
  obtain ⟨hsample, hzone⟩ := hwritten
  match k with
  | 0 =>
    obtain ⟨u, hu, hsome⟩ := samplePrim_next (s := s.atPhaseStart) hs.ownRegisters.atPhaseStart.samples
    exact ⟨.sample, u, rfl, hu, hsome, by simp⟩
  | 1 =>
    obtain ⟨v, hv⟩ := Option.isSome_iff_exists.1 (hsample le_rfl)
    have hclassify : classifyPrim s.atPhaseStart = .next (s.atPhaseStart.setZone (zoneCode (classify s.cfg v))).passTime := by
      simp [classifyPrim, hv]
    exact ⟨.classify, _, rfl, hclassify, by simp [State.passTime, hv], fun _ => ⟨_, rfl⟩⟩
  | k + 2 =>
    obtain ⟨as, hlist, hindex, -⟩ := hs.position
    have hlist' : pollActions s.sample = as := by simpa [State.phaseList_eq, hq, phaseActions] using hlist
    rw [← hlist', hq] at hindex
    have hnote : (pollActions s.sample)[k + 2]? = some (.note .sampleOutOfCalibratedBand) := by
      unfold pollActions at hindex ⊢
      split at hindex <;> simp_all [Seq.index]
    refine ⟨_, _, hnote, rfl, ?_, fun _ => ?_⟩
    · simpa [notePrim, State.passTime] using hsample (by omega)
    · simpa [notePrim, State.passTime] using hzone (by omega)

/-- A step within POLL: to its next position, or by the dispatch to the handler of its zone. -/
theorem RunsOwnProgram.programStep_of_poll {s : State} {k : Nat} (hs : RunsOwnProgram s) (hq : s.seq = .poll k) :
    ∃ t, programStep s = .next t ∧ RunsOwnProgram t := by
  obtain ⟨a, u, ha, hu, hsample, hzone⟩ := hs.poll_action hq
  obtain ⟨hsur, hpos, -⟩ := perform_frame hu
  have hlist : s.phaseList = .ok (pollActions s.sample) := by rw [State.phaseList_eq, hq]; rfl
  have hseq : u.seq = .poll k := by simpa [hq] using hpos.1
  have hrunning : u.runningList = .ok (pollActions u.sample) := by simp [State.runningList, hseq, phaseActions]
  have hphase : phaseActions s.cfg s.seq s.atPhaseStart.phaseEt s.sample = .ok (pollActions s.sample) :=
    s.phaseList_eq.symm.trans hlist
  have hown : OwnRegisters u := hs.ownRegisters.atPhaseStart.perform
    (by simpa using phaseActions_isSafe hs.config hs.phaseEt hphase a (List.mem_of_getElem? ha)) hu
  have hnever := pollActions_not_driven s.sample a (List.mem_of_getElem? ha)
  have level (l : Line) (hl : s.lineLevel l = 0) : u.lineLevel l = 0 := by
    rw [perform_lineLevel hu l fun v hv => absurd hv (hnever l v), State.atPhaseStart_lineLevel, hl]
    exact levelAfter_of_not_driven (by simpa using hnever l) 0
  obtain ⟨hrelay, he⟩ := hs.poll_atRest hq
  have hrelay' : levelOfBit u.relay = 0 := level .relay (congrArg levelOfBit hrelay)
  have he' : levelOfBit u.e = 0 := level .e (congrArg levelOfBit he)
  have hstep : programStep s = advance k u := by
    rw [programStep_of_action hlist (by rw [hq]; exact ha), hu, andThen_next, hq]; rfl
  rw [hstep]
  rcases Nat.lt_or_ge (k + 1) (pollActions u.sample).length with hk | hk
  · refine ⟨_, advance_within hrunning hk, hown.runs_of_within ?_ hrunning hk ?_ ?_ ?_⟩
    · rw [hsur.cfg, hpos.2, State.atPhaseStart_cfg]; exact hs.phaseEt
    · rw [hseq]
      exact ⟨fun _ => hsample, fun h2 => hzone (by omega)⟩
    · rw [pollActions_take_levelAfter, hrelay']
    · rw [pollActions_take_levelAfter, he']
  · have htwo := two_le_length_pollActions u.sample
    obtain ⟨z, hz⟩ := hzone (by omega)
    rw [advance_past hrunning hk, leavePhase_of_poll hseq hz]
    exact ⟨_, rfl, OwnRegisters.runs_of_start ⟨hown.noScript, hown.config, hown.samples, hown.et, hown.write⟩ rfl
      (eq_of_levelOfBit_eq hrelay') (eq_of_levelOfBit_eq he')⟩

/-! ### The step -/

theorem RunsOwnProgram.programStep {s : State} (hs : RunsOwnProgram s) : ∃ t, programStep s = .next t ∧ RunsOwnProgram t := by
  by_cases hq : ∃ k, s.seq = .poll k
  · obtain ⟨k, hk⟩ := hq
    exact hs.programStep_of_poll hk
  · exact hs.programStep_of_not_poll (not_exists.1 hq)

/-- A reset finds what it needs at whichever point of the step it falls: the step begun keeps the script, the configuration and
the samples to come. -/
theorem RunsOwnProgram.abandoned {s : State} (hs : RunsOwnProgram s) (p : ResetPoint) :
    ∃ u, abandoned p s = .next u ∧ u.script = [] ∧ runnable u.cfg = true ∧ samplesInRange u := by
  simp only [Machine.abandoned, hs.noScript]
  split
  · exact ⟨s, rfl, hs.noScript, hs.config, hs.samples⟩
  · split
    · refine ⟨_, rfl, ?_⟩
      rcases beginAction_cases p.into s.nextAction s with ⟨d, -, h⟩ | h <;> rw [h] <;>
        exact ⟨hs.noScript, hs.config, hs.samples⟩
    · obtain ⟨t, ht, hrun⟩ := hs.programStep
      exact ⟨t, ht, hrun.noScript, hrun.config, hrun.samples⟩

/-- Settles O52: a reset leads to the start of BOOT, every other step is one of the block's own program, in POLL or in a phase of
another kind. -/
theorem ownProgramNeverStopsAndKeepsItsInvariant : Obligations.OwnProgramNeverStopsAndKeepsItsInvariant := by
  intro s hs
  have hcfg : configOk s.cfg = true := (runnable_iff.1 hs.config).1
  cases hreset : s.env.reset with
  | none => rw [step_eq_programStep hcfg hreset hs.noScript]; exact hs.programStep
  | some p =>
    obtain ⟨u, hu, hscript, hrunnable, hsamples⟩ := hs.abandoned p
    exact ⟨takeReset u, by simp [step, hcfg, hreset, hu], takeReset_runs hscript hrunnable hsamples⟩

/-- Settles O53: the default parameters are runnable, and the block is at the start of BOOT. -/
theorem resetRunsTheOwnProgram : Obligations.ResetRunsTheOwnProgram :=
  OwnRegisters.runs_of_start ⟨rfl, by decide, by simp [samplesInRange, State.reset, State.atReset, Env.free],
    ⟨by decide, by decide⟩, rfl⟩ rfl rfl rfl

/-! ### The invariant in the spec's words -/

/-- The relay is on only in the Expose handler, after the action that drives it on and before its last, which drives it off. -/
theorem RunsOwnProgram.relay_on {s : State} (hs : RunsOwnProgram s) (hrelay : s.relay = 1) :
    ∃ k as, s.seq = .handle .expose k ∧ s.phaseList = .ok as ∧ .drive .relay 1 ∈ as.take k ∧ .drive .relay 0 ∉ as.take k := by
  obtain ⟨as, hlist, hindex, hlevel, -⟩ := hs.position
  have hphase := s.phaseList_eq.symm.trans hlist
  rw [hrelay] at hlevel
  by_cases hq : ∃ k, s.seq = .handle .expose k
  · obtain ⟨k, hk⟩ := hq
    rw [hk] at hphase hindex hlevel
    exact ⟨k, as, hk, hlist, drive_mem_of_levelAfter hlevel.symm (by decide), exposeActions_relayOff_not_mem_take hphase hindex⟩
  · rw [phaseActions_take_levelAfter_relay (not_exists.1 hq) hphase] at hlevel
    exact absurd hlevel (by decide)

/-- Settles O54: each clause read off the invariant at the position. -/
theorem invariantsOfTheOwnProgram : Obligations.InvariantsOfTheOwnProgram := by
  intro s hs hmin hmax
  have het := hs.et
  simp only [etInDomain, hmin, hmax] at het
  obtain ⟨hone, hninetynine⟩ := het
  have hrange : 1 ≤ s.et.toNat ∧ s.et.toNat ≤ 99 := ⟨hone, hninetynine⟩
  refine ⟨hrange, Nat.le_of_lt_succ s.curCol.isLt, Nat.le_of_lt_succ s.curLine.isLt, hs.relay_on, fun he => ?_, hs.write⟩
  obtain ⟨as, hlist, -, -, hlevel⟩ := hs.position
  rw [he] at hlevel
  have hphase := s.phaseList_eq.symm.trans hlist
  obtain ⟨pre, rs, n, done, hdone⟩ := (phaseActions_nibbled hphase).within_of_levelAfter_e (fun _ ha v => ha.ne_drive_e v)
    s.seq.index (by rw [← hlevel]; decide)
  exact ⟨as, pre, rs, n, done, hlist, hdone⟩

/-! ## The steps of a phase -/

/-- The next step is one of the block's own program (R20). -/
structure OnProgram (s : State) : Prop where
  config   : configOk s.cfg = true
  noReset  : s.env.reset = none
  noScript : s.script = []

theorem OnProgram.step {s : State} (h : OnProgram s) : step s = programStep s :=
  step_eq_programStep h.config h.noReset h.noScript

theorem OnProgram.of_sameSurroundings {s t : State} (h : OnProgram s) (k : SameSurroundings s t) : OnProgram t :=
  ⟨by rw [k.cfg]; exact h.config, k.reset.trans h.noReset, k.script.trans h.noScript⟩

theorem OnProgram.setSeq {s : State} (h : OnProgram s) (q : Seq) : OnProgram (s.setSeq q) := ⟨h.config, h.noReset, h.noScript⟩

theorem OnProgram.atPhaseStart {s : State} (h : OnProgram s) : OnProgram s.atPhaseStart :=
  ⟨by simpa using h.config, by simpa using h.noReset, by simpa using h.noScript⟩

section
variable {s u : State} {as bs : List Action} {a : Action}

theorem OnProgram.step_eq_advance (h : OnProgram s) (hlist : s.phaseList = .ok as) (ha : as[s.seq.index]? = some a)
    (hu : perform a s.atPhaseStart = .next u) : Machine.step s = advance s.seq.index u := by
  rw [h.step, programStep_of_action hlist ha, hu, andThen_next]

theorem perform_atPhaseStart_seq (hu : perform a s.atPhaseStart = .next u) : u.seq = s.seq := by
  obtain ⟨-, ⟨hseq, -⟩, -⟩ := perform_frame hu
  simpa using hseq

/-- Settles O51: the action at the index, then the position's advance, by the list that is under way. -/
theorem stepPerformsTheActionAtItsIndex : Obligations.StepPerformsTheActionAtItsIndex := by
  intro s u as bs a hcfg hreset hscript hlist ha hu hrunning
  have hseq : u.seq = s.seq := perform_atPhaseStart_seq hu
  rw [OnProgram.step_eq_advance ⟨hcfg, hreset, hscript⟩ hlist ha hu]
  refine ⟨fun hk => ?_, fun hk => ⟨fun hq => ?_, fun k z hq hz => ?_⟩⟩
  · rw [advance_within hrunning hk, hseq]
  · rw [advance_past hrunning hk, leavePhase_of_not_poll]
    rw [hseq]
    rcases hq with ⟨k, hk⟩ | ⟨z, k, hk⟩ <;> simp [hk]
  · rw [advance_past hrunning hk, leavePhase_of_poll (hseq.trans hq) hz]

end

/-! ### A whole phase -/

section
variable {M : Host.Core} {s t : M.State}

theorem coreRun_of_next (k : Nat) (h : M.step s = .next t) : M.run (k + 1) s = M.run k t := by rw [Host.Core.run, h]
theorem coreRun_of_fault {x : M.Fault} (k : Nat) (h : M.step s = .fault x) : M.run (k + 1) s = .fault x := by
  rw [Host.Core.run, h]
theorem coreRun_of_refused {x : M.Refusal} (k : Nat) (h : M.step s = .refused x) : M.run (k + 1) s = .refused x := by
  rw [Host.Core.run, h]

end

/-- `k` steps, stopping at the first stop: `Host.Core.run` of this machine over its own types (`core_run_eq_runSteps`). -/
def runSteps : Nat → State → Result
  | 0, s     => .next s
  | k + 1, s => andThen (step s) (runSteps k)

theorem core_run_eq_runSteps (k : Nat) (s : State) : Sys2Proof.core.run k s = runSteps k s := by
  induction k generalizing s with
  | zero => rfl
  | succ k ih =>
    rw [runSteps]
    cases h : step s with
    | next t => exact (coreRun_of_next (M := Sys2Proof.core) k h).trans (ih t)
    | fault x => exact coreRun_of_fault (M := Sys2Proof.core) k h
    | refused x => exact coreRun_of_refused (M := Sys2Proof.core) k h

/-- What the steps from the next state answer, the steps from here answer with one step more. -/
theorem exists_runSteps_of_step {s t : State} {r : Result} (h : step s = .next t) (hr : ∃ n, runSteps n t = r) :
    ∃ n, runSteps n s = r := by
  obtain ⟨n, hn⟩ := hr
  exact ⟨n + 1, by rw [runSteps, h, andThen_next, hn]⟩

@[simp] theorem State.setSeq_setSeq (s : State) (p q : Seq) : (s.setSeq p).setSeq q = s.setSeq q := rfl

/-- No action reads the position. -/
theorem perform_setSeq (a : Action) (s : State) (q : Seq) :
    perform a (s.setSeq q) = andThen (perform a s) (fun t => .next (t.setSeq q)) := by
  cases a with
  | drive l v => cases l <;> rfl
  | sample =>
    unfold perform samplePrim
    cases hs : s.env.samples with
    | nil => simp [hs]; rfl
    | cons v vs => by_cases hv : v ≤ sampleMax s.cfg <;> simp [hs, hv]; rfl
  | classify =>
    unfold perform classifyPrim
    cases hs : s.sample <;> simp [hs]; rfl
  | _ => rfl

theorem runActions_setSeq (as : List Action) (s : State) (q : Seq) :
    runActions as (s.setSeq q) = andThen (runActions as s) (fun t => .next (t.setSeq q)) := by
  induction as generalizing s with
  | nil => rfl
  | cons a as ih => simp only [runActions_cons, perform_setSeq, andThen_assoc, andThen_next, ih]

/-- The rest of BOOT or of a handler: as many steps as actions are left perform them and go back to the loop. -/
theorem runSteps_phase {n : Nat} {s : State} {as : List Action} (h : OnProgram s) (hq : ∀ k, s.seq ≠ .poll k)
    (hlist : s.phaseList = .ok as) (hn : s.seq.index + n + 1 = as.length) :
    runSteps (n + 1) s
      = andThen (runActions (as.drop s.seq.index) s.atPhaseStart) (fun t => .next (t.setSeq (.poll 0))) := by
  induction n generalizing s with
  | zero =>
    have hlt : s.seq.index < as.length := by omega
    rw [runSteps, h.step, programStep_of_action hlist (List.getElem?_eq_getElem hlt), List.drop_eq_getElem_cons hlt,
      List.drop_of_length_le (by omega), runActions_cons, andThen_assoc, andThen_assoc]
    refine andThen_congr fun u hu => ?_
    have hrunning : u.runningList = .ok as := (runningList_of_perform hq hu).trans hlist
    rw [advance_past hrunning (by omega), leavePhase_of_not_poll (by rwa [perform_atPhaseStart_seq hu])]
    rfl
  | succ n ih =>
    have hlt : s.seq.index < as.length := by omega
    rw [runSteps, h.step, programStep_of_action hlist (List.getElem?_eq_getElem hlt), List.drop_eq_getElem_cons hlt,
      runActions_cons, andThen_assoc, andThen_assoc]
    refine andThen_congr fun u hu => ?_
    have hrunning : u.runningList = .ok as := (runningList_of_perform hq hu).trans hlist
    have hseq := perform_atPhaseStart_seq hu
    have hrest := ih (s := u.setSeq (u.seq.atIndex (s.seq.index + 1)))
      ((h.atPhaseStart.of_sameSurroundings (perform_frame hu).1).setSeq _)
      (by rw [hseq]; cases hs : s.seq <;> simp_all [Seq.atIndex]) (by simpa using hrunning) (by simp; omega)
    rw [advance_within hrunning (by omega), andThen_next, hrest, State.atPhaseStart_setSeq_succ, runActions_setSeq,
      andThen_assoc]
    simp

/-- From its start, BOOT or a handler is run by as many steps as it has actions. -/
theorem runSteps_phase_start {s : State} {as : List Action} (h : OnProgram s) (hq : ∀ k, s.seq ≠ .poll k)
    (hindex : s.seq.index = 0) (hlist : s.phaseList = .ok as) (hne : as ≠ []) :
    runSteps as.length s = andThen (runActions as s.latch) (fun t => .next (t.setSeq (.poll 0))) := by
  obtain ⟨n, hn⟩ := Nat.exists_eq_succ_of_ne_zero (List.length_pos_iff.2 hne).ne'
  have hphase := runSteps_phase (n := n) h hq hlist (by omega)
  rwa [hindex, List.drop_zero, State.atPhaseStart_of_start hindex, ← Nat.succ_eq_add_one, ← hn] at hphase

theorem State.phaseList_of_start {s : State} (hindex : s.seq.index = 0) :
    s.phaseList = phaseActions s.cfg s.seq s.et s.sample := by
  rw [State.phaseList_eq, State.atPhaseStart_of_start hindex, State.latch_phaseEt]

/-- Settles O55: the whole phase from its start. -/
theorem bootStepsRefineTheBootSequence : Obligations.BootStepsRefineTheBootSequence := by
  intro s hcfg hreset hscript hseq
  have hindex : s.seq.index = 0 := by rw [hseq]; rfl
  have hlist : s.phaseList = .ok (bootActions s.cfg) := by rw [State.phaseList_of_start hindex, hseq]; rfl
  have hne : bootActions s.cfg ≠ [] := by simp [bootActions, initActions]
  exact (core_run_eq_runSteps _ _).trans
    (runSteps_phase_start ⟨hcfg, hreset, hscript⟩ (by simp [hseq]) hindex hlist hne)

/-! ### One iteration of the control loop -/

/-- From its start a handler's steps do what `runHandler` does, its fault included. -/
theorem exists_runSteps_eq_runHandler {s : State} {z : Zone} (h : OnProgram s) (hseq : s.seq = .handle z 0) :
    ∃ n, runSteps n s = runHandler s := by
  have hindex : s.seq.index = 0 := by rw [hseq]; rfl
  have hlist : s.phaseList = handlerActions s.cfg s.et z := by rw [State.phaseList_of_start hindex, hseq]; rfl
  have hrun : runHandler s
      = andThen (runExpansion (handlerActions s.cfg s.et z) s.latch) (fun t => .next (t.setSeq (.poll 0))) := by
    rw [runHandler, hseq]
  rw [hrun]
  cases hhandler : handlerActions s.cfg s.et z with
  | error x => exact ⟨1, by simp [runSteps, h.step, programStep, hlist, hhandler]⟩
  | ok as =>
    exact ⟨as.length, runSteps_phase_start h (by simp [hseq]) hindex (hlist.trans hhandler) (handlerActions_ne_nil hhandler)⟩

theorem noteSample_within {s : State} (h : outOfCalibratedBand s.sample = false) : noteSample s = .next s := by
  simp [noteSample, pollActions, h]

theorem noteSample_above {s : State} (h : outOfCalibratedBand s.sample = true) :
    noteSample s = .next (notePrim .sampleOutOfCalibratedBand s) := by
  simp [noteSample, pollActions, h]

theorem pollActions_within {x : Option Nat} (h : outOfCalibratedBand x = false) : pollActions x = [.sample, .classify] := by
  simp [pollActions, h]

theorem pollActions_above {x : Option Nat} (h : outOfCalibratedBand x = true) :
    pollActions x = [.sample, .classify, .note .sampleOutOfCalibratedBand] := by
  simp [pollActions, h]

theorem phaseList_poll {s : State} {k : Nat} (hseq : s.seq = .poll k) : s.phaseList = .ok (pollActions s.sample) := by
  rw [State.phaseList_eq, hseq]; rfl

theorem runningList_poll {s : State} {k : Nat} (hseq : s.seq = .poll k) : s.runningList = .ok (pollActions s.sample) := by
  rw [State.runningList, hseq]; rfl

/-- POLL at any position, when its action answers. -/
theorem OnProgram.step_poll {s u : State} {a : Action} {k : Nat} (h : OnProgram s) (hseq : s.seq = .poll k)
    (ha : (pollActions s.sample)[k]? = some a) (hu : perform a s.atPhaseStart = .next u) : Machine.step s = advance k u := by
  have hstep := h.step_eq_advance (phaseList_poll hseq) (by rw [hseq]; exact ha) hu
  rwa [hseq] at hstep

/-- The transfer from POLL to a handler takes place whatever the index of the position. -/
theorem advance_poll_past {u : State} {z : Zone} {k : Nat} (hz : u.zone = some (zoneCode z))
    (hk : (pollActions u.sample).length ≤ k + 1) : advance k (u.setSeq (.poll k)) = .next (enterHandler z u) :=
  (advance_past (runningList_poll (s := u.setSeq (.poll k)) rfl) hk).trans (leavePhase_of_poll rfl hz)

theorem dispatch_of_zone {s : State} {z : Zone} (hz : s.zone = some (zoneCode z)) : dispatch s = .next (enterHandler z s) := by
  simp [dispatch, hz]

/-- From the second position of POLL the steps classify, note, dispatch and run the handler. -/
theorem exists_runSteps_classified {u : State} {v : Nat} (h : OnProgram u) (hv : u.sample = some v) :
    ∃ n, runSteps n (u.setSeq (.poll 1))
      = andThen (andThen (andThen (perform .classify u) noteSample) dispatch) runHandler := by
  obtain ⟨w, z, hw, hsample, hz⟩ : ∃ w z, perform .classify u = .next w ∧ w.sample = some v ∧ w.zone = some (zoneCode z) :=
    ⟨(u.setZone (zoneCode (classify u.cfg v))).passTime, classify u.cfg v, by simp [perform, classifyPrim, hv], hv, rfl⟩
  have hon : OnProgram w := h.of_sameSurroundings (perform_frame hw).1
  have hstep : step (u.setSeq (.poll 1)) = advance 1 (w.setSeq (.poll 1)) :=
    (h.setSeq _).step_poll rfl rfl (by rw [State.atPhaseStart_within (by simp [Seq.index]), perform_setSeq, hw]; rfl)
  rw [hw, andThen_next]
  cases hout : outOfCalibratedBand w.sample with
  | false =>
    rw [noteSample_within hout, andThen_next, dispatch_of_zone hz, andThen_next]
    rw [advance_poll_past hz (by rw [pollActions_within hout]; rfl)] at hstep
    exact exists_runSteps_of_step hstep (exists_runSteps_eq_runHandler ⟨hon.config, hon.noReset, hon.noScript⟩ rfl)
  | true =>
    rw [noteSample_above hout, andThen_next, dispatch_of_zone (s := notePrim .sampleOutOfCalibratedBand w) hz,
      andThen_next]
    rw [advance_within (runningList_poll rfl) (by rw [State.setSeq_sample, pollActions_above hout]; decide)] at hstep
    have hnote : step (w.setSeq (.poll 2)) = .next (enterHandler z (notePrim .sampleOutOfCalibratedBand w)) := by
      rw [(hon.setSeq _).step_poll rfl (by rw [State.setSeq_sample, pollActions_above hout]; rfl)
        (by rw [State.atPhaseStart_within (by simp [Seq.index]), perform_setSeq]; rfl)]
      have hsame : (notePrim .sampleOutOfCalibratedBand w).sample = w.sample := rfl
      exact advance_poll_past hz (by rw [hsame, pollActions_above hout]; rfl)
    exact exists_runSteps_of_step hstep (exists_runSteps_of_step hnote
      (exists_runSteps_eq_runHandler ⟨hon.config, hon.noReset, hon.noScript⟩ rfl))

theorem runActions_singleton (a : Action) (s : State) : runActions [a] s = perform a s := by
  rw [runActions_cons]
  exact andThen_next_right _

/-- POLL as its sample and what follows it (R69). -/
theorem exec_poll_eq (s : State) : exec .poll s = andThen (perform .sample s.latch)
    (fun u => andThen (andThen (andThen (perform .classify u) noteSample) dispatch) runHandler) := by
  have hlist (t : State) : runActions [.sample, .classify] t = andThen (perform .sample t) (perform .classify) :=
    congrArg (andThen (perform .sample t)) (funext fun u => runActions_singleton .classify u)
  simp only [exec_poll, execPoll, hlist, andThen_assoc]

/-- Settles O56: the sample's step, by which the iteration stops or goes on to classify. -/
theorem pollStepsRefineTheIteration : Obligations.PollStepsRefineTheIteration := by
  intro s hcfg hreset hscript hseq
  have h : OnProgram s := ⟨hcfg, hreset, hscript⟩
  have hstart : s.atPhaseStart = s.latch := State.atPhaseStart_of_start (by rw [hseq]; rfl)
  have hstep : step s = andThen (perform .sample s.latch) (advance 0) := by
    rw [h.step, programStep_of_action (phaseList_poll hseq) (by rw [hseq]; rfl), hseq, hstart]; rfl
  suffices hsteps : ∃ n, runSteps n s = exec .poll s by
    obtain ⟨n, hn⟩ := hsteps
    exact ⟨n, (core_run_eq_runSteps n s).trans hn⟩
  rw [exec_poll_eq]
  cases hsample : perform .sample s.latch with
  | fault x => exact ⟨1, by simp [runSteps, hstep, hsample]⟩
  | refused x => exact ⟨1, by simp [runSteps, hstep, hsample]⟩
  | next u =>
    obtain ⟨hsur, hpos, -⟩ := perform_frame hsample
    have hon : OnProgram u := OnProgram.of_sameSurroundings (s := s.latch) ⟨h.config, h.noReset, h.noScript⟩ hsur
    have huseq : u.seq = .poll 0 := hpos.1.trans hseq
    obtain ⟨v, hv, -⟩ := perform_sample_trace hsample
    rw [hsample, andThen_next, advance_within (runningList_poll huseq) (by simp [pollActions]), huseq] at hstep
    exact exists_runSteps_of_step hstep (exists_runSteps_classified hon hv)

/-! ## What an instruction can do -/

/-- The kinds of meaning an instruction can have. -/
inductive Meaning where
  /-- A procedure's list of actions. -/
  | list (x : Expansion)
  /-- One action that a reset does not cut. -/
  | one (a : Action)
  /-- A zone code, dispatched (R47). -/
  | enter (z : Zone)
  | poll
  | boot
  | faults (x : Fault)
  | refuses (x : Refusal)

/-- What an instruction means, from the configuration and `ET` it finds (`exec_eq_run`, `partOfOperation_eq_part`). -/
def meaningOf (cfg : Config) (et : Seconds) : Instr → Meaning
  | .busWord rs n | .sendNib rs n => .list (.ok (sendNibbleActions cfg rs n))
  | .bytePair rs v | .sendByte rs v => .list (.ok (sendByteActions cfg rs v))
  | .cmdClear              => .list (.ok (putCommandActions cfg 0b00000001))
  | .cmdReset x            => .list (.ok (putCommandActions cfg (cmdResetByte x)))
  | .cmdEntryMode i sh     => .list (.ok (putCommandActions cfg (cmdEntryModeByte i sh)))
  | .cmdDisplayCtrl d c b  => .list (.ok (putCommandActions cfg (cmdDisplayCtrlByte d c b)))
  | .cmdFunctionSet l n f  => .list (.ok (putCommandActions cfg (cmdFunctionSetByte l n f)))
  | .cmdSetDdram a         => .list (.ok (putCommandActions cfg (cmdSetDdramByte a)))
  | .data c | .putChar c   => .list (.ok (putCharActions cfg c))
  | .putCmd v              => .list (.ok (putCommandActions cfg v))
  | .putStr str            => .list (.ok (putStringActions cfg str))
  | .gotoPos c l           => .list (.ok (gotoActions cfg c l))
  | .init                  => .list (.ok (initActions cfg))
  | .writeAt c l str       => .list (.ok (writeAtActions cfg c l str))
  | .render l str          =>
    if str.length ≤ 16 then .list (.ok (renderActions cfg l str)) else .refuses (.renderTooLong str.length)
  | .wait d                => .list (.ok [.wait d])
  | .hInc                  => .list (incrementActions cfg et)
  | .hDec                  => .list (decrementActions cfg et)
  | .hReset                => .list (.ok (resetActions cfg))
  | .hExpose               => .list (exposeActions cfg et)
  | .hIdle                 => .list (.ok idleActions)
  | .banner                => .list (.ok (bannerActions cfg))
  | .drive l v             =>
    if levelAdmitted l v then .one (.drive l v)
    else if l = .rw ∧ v = 1 then .refuses .readTransfer
    else .refuses (.badLevel l v)
  | .sample                => .one .sample
  | .note k                => .one (.note k)
  | .classify              => .one .classify
  | .zoneIdle              => .enter .idle
  | .zoneIncrement         => .enter .increment
  | .zoneDecrement         => .enter .decrement
  | .zoneReset             => .enter .reset
  | .zoneExpose            => .enter .expose
  | .zoneReserved c        => .faults (.reservedZone c)
  | .poll                  => .poll
  | .boot                  => .boot

/-- What a meaning answers. -/
def Meaning.run : Meaning → State → Result
  | .list x, s    => runExpansion x s
  | .one a, s     => perform a s
  | .enter z, s   => .next (enterHandler z (s.setZone (zoneCode z)))
  | .poll, s      => execPoll s
  | .boot, s      => execBoot s
  | .faults x, _  => .fault x
  | .refuses x, _ => .refused x

/-- What a meaning answers up to a point of it. -/
def Meaning.part (p : ResetPoint) (m : Meaning) (s : State) : Result :=
  match m with
  | .list x => partOfExpansion p x s
  | .poll   => partOfProgram p (s.setSeq (.poll 0))
  | .boot   => partOfProgram p (s.setSeq (.boot 0))
  | .one _ | .enter _ | .faults _ | .refuses _ => if p.after = 0 then .next s else m.run s

/-- EVERY INSTRUCTION, said once: it answers what its meaning answers. -/
theorem exec_eq_run (i : Instr) (s : State) : exec i s = (meaningOf s.cfg s.et i).run s := by
  cases i with
  | render l str =>
    by_cases h : str.length ≤ 16
    · simp only [meaningOf, if_pos h]; exact exec_render s l str h
    · simp only [meaningOf, if_neg h]; exact exec_render_long s l str (Nat.lt_of_not_le h)
  | drive l v =>
    rw [exec_drive, execDrive, meaningOf]
    split
    · rfl
    · split <;> rfl
  | _ => rfl

theorem partOfOperation_eq_part (p : ResetPoint) (i : Instr) (s : State) :
    partOfOperation p i s = (meaningOf s.cfg s.et i).part p s := by
  cases i with
  | render l str =>
    by_cases h : str.length ≤ 16
    · simp only [partOfOperation, meaningOf, if_pos h]; rfl
    · simp only [partOfOperation, meaningOf, if_neg h, allOrNothing, exec_render_long s l str (Nat.lt_of_not_le h)]; rfl
  | drive l v =>
    simp only [partOfOperation, allOrNothing, exec_eq_run, meaningOf]
    by_cases h : levelAdmitted l v = true
    · simp only [if_pos h]; rfl
    · by_cases hread : l = .rw ∧ v = 1
      · simp only [if_neg h, if_pos hread]; rfl
      · simp only [if_neg h, if_neg hread]; rfl
  | _ => rfl

/-! ## What every operation keeps -/

/-- An operation leads only to states that stand in a relation to the one before. -/
def Keeps (R : State → State → Prop) (f : State → Result) : Prop := ∀ s t, f s = .next t → R s t

/-- A relation between an earlier and a later state that the shared operations keep. -/
structure StepClosed (R : State → State → Prop) : Prop where
  refl         : ∀ s, R s s
  trans        : ∀ {s t u}, R s t → R t u → R s u
  perform      : ∀ a, Keeps R (perform a)
  beginAction  : ∀ into a s, R s (beginAction into a s)
  enterHandler : ∀ z s, R s (enterHandler z s)
  setZone      : ∀ c s, R s (s.setZone c)
  setSeq       : ∀ q s, R s (s.setSeq q)
  setScript    : ∀ ops s, R s (s.setScript ops)
  latch        : ∀ s, R s s.latch

theorem Keeps.next {R : State → State → Prop} {g : State → State} (hg : ∀ s, R s (g s)) : Keeps R (fun s => .next (g s)) := by
  rintro s t ⟨⟩
  exact hg s

namespace StepClosed

variable {R : State → State → Prop} (hR : StepClosed R)
include hR

theorem andThen {f g : State → Result} (hf : Keeps R f) (hg : Keeps R g) : Keeps R (fun s => andThen (f s) g) := by
  intro s t h
  obtain ⟨u, hu, ht⟩ := andThen_eq_next.1 h
  exact hR.trans (hf s u hu) (hg u t ht)

/-- An update that keeps the relation may come before an operation that keeps it. -/
theorem after {f : State → Result} {g : State → State} (hg : ∀ s, R s (g s)) (hf : Keeps R f) : Keeps R (fun s => f (g s)) :=
  fun s _ h => hR.trans (hg s) (hf _ _ h)

theorem runActions (as : List Action) : Keeps R (runActions as) := by
  induction as with
  | nil => exact .next hR.refl
  | cons a as ih => exact hR.andThen (hR.perform a) ih

theorem runExpansion (x : Expansion) : Keeps R (runExpansion x) := by
  cases x with
  | ok as => exact hR.runActions as
  | error e => rintro s t ⟨⟩

theorem atPhaseStart (s : State) : R s s.atPhaseStart := by
  rcases s.atPhaseStart_eq with h | h <;> rw [h]
  · exact hR.latch s
  · exact hR.refl s

theorem dispatch : Keeps R dispatch := by
  intro s t h
  obtain ⟨c, z, -, -, rfl⟩ := dispatch_next_iff.1 h
  exact hR.enterHandler z s

theorem leavePhase : Keeps R leavePhase := by
  intro s t h
  unfold Machine.leavePhase at h
  split at h
  · cases h; exact hR.setSeq _ s
  · cases h; exact hR.setSeq _ s
  · exact hR.dispatch s t h

theorem advance (k : Nat) : Keeps R (advance k) := by
  intro s t h
  unfold Machine.advance at h
  split at h
  · split at h
    · cases h; exact hR.setSeq _ s
    · exact hR.leavePhase s t h
  · cases h

theorem programStep : Keeps R programStep := by
  intro s t h
  unfold Machine.programStep at h
  split at h
  · cases h
  · split at h
    · exact hR.andThen (hR.after hR.atPhaseStart (hR.perform _)) (hR.advance _) s t h
    · exact hR.leavePhase s t h

/-! ### Operations -/

theorem runHandler : Keeps R runHandler := by
  intro s t h
  unfold Machine.runHandler at h
  split at h
  · exact hR.andThen (hR.after hR.latch (hR.runExpansion _)) (.next (hR.setSeq _)) s t h
  · cases h; exact hR.refl s
  · cases h; exact hR.refl s

theorem execPoll : Keeps R execPoll :=
  hR.andThen (hR.andThen (hR.andThen (hR.after hR.latch (hR.runActions _)) fun _ _ h => hR.runActions _ _ _ h) hR.dispatch)
    hR.runHandler

theorem execBoot : Keeps R execBoot := fun s t h =>
  hR.andThen (hR.after hR.latch (hR.runActions (bootActions s.cfg))) (.next (hR.setSeq _)) s t h

theorem run (m : Meaning) : Keeps R m.run := by
  cases m with
  | list x => exact hR.runExpansion x
  | one a => exact hR.perform a
  | enter z => exact .next fun s => hR.trans (hR.setZone _ s) (hR.enterHandler z _)
  | poll => exact hR.execPoll
  | boot => exact hR.execBoot
  | faults x | refuses x => rintro s t ⟨⟩

theorem exec (i : Instr) : Keeps R (exec i) := by
  intro s t h
  rw [exec_eq_run] at h
  exact hR.run _ s t h

theorem scriptStep (op : Encoded) (rest : List Encoded) : Keeps R (scriptStep op rest) := by
  intro s t h
  unfold Machine.scriptStep at h
  split at h
  · exact hR.after (hR.setScript rest) (hR.exec _) s t h
  · cases h

/-! ### Operations up to a point -/

theorem partOfActions (p : ResetPoint) (as : List Action) : Keeps R (partOfActions p as) :=
  hR.andThen (hR.runActions _) (.next (hR.beginAction _ _))

theorem partOfExpansion (p : ResetPoint) (x : Expansion) : Keeps R (partOfExpansion p x) := by
  intro s t h
  unfold Machine.partOfExpansion at h
  split at h
  · exact hR.partOfActions p _ s t h
  · split at h <;> cases h
    exact hR.refl s

theorem programPart (k : Nat) : Keeps R (programPart k) := by
  induction k with
  | zero => exact .next hR.refl
  | succ k ih =>
    refine hR.andThen hR.programStep fun s t h => ?_
    split at h
    · cases h; exact hR.refl s
    · exact ih s t h

theorem partOfProgram (p : ResetPoint) : Keeps R (partOfProgram p) :=
  hR.andThen (hR.programPart _) (.next fun s => hR.beginAction _ _ s)

theorem part (p : ResetPoint) (m : Meaning) : Keeps R (m.part p) := by
  have whole : Keeps R (fun s => if p.after = 0 then .next s else m.run s) := by
    intro s t h
    split at h
    · cases h; exact hR.refl s
    · exact hR.run m s t h
  cases m with
  | list x => exact hR.partOfExpansion p x
  | poll => exact hR.after (g := State.setSeq (.poll 0)) (hR.setSeq _) (hR.partOfProgram p)
  | boot => exact hR.after (g := State.setSeq (.boot 0)) (hR.setSeq _) (hR.partOfProgram p)
  | one _ | enter _ | faults _ | refuses _ => exact whole

theorem abandoned (p : ResetPoint) : Keeps R (abandoned p) := by
  intro s t h
  unfold Machine.abandoned at h
  split at h
  · cases h; exact hR.refl s
  · split at h
    · split at h
      · rw [partOfOperation_eq_part] at h
        exact hR.after (hR.setScript _) (hR.part p _) s t h
      · cases h; exact hR.refl s
    · split at h
      · cases h; exact hR.beginAction _ _ s
      · exact hR.programStep s t h

end StepClosed

/-- WHAT A STEP CAN DO: a reset of what the step begun has left, or what the block's operations keep. -/
theorem StepClosed.step {R : State → State → Prop} (hR : StepClosed R) {s t : State} (h : step s = .next t) :
    (s.env.reset = none ∧ R s t) ∨ (∃ u, s.env.reset ≠ none ∧ R s u ∧ t = takeReset u) := by
  unfold Machine.step at h
  split at h
  · split at h
    · next p hp =>
      obtain ⟨u, hu, ht⟩ := andThen_eq_next.1 h
      cases ht
      exact .inr ⟨u, by simp [hp], hR.abandoned p s u hu, rfl⟩
    · next hreset =>
      split at h
      · exact .inl ⟨hreset, hR.scriptStep _ _ s t h⟩
      · exact .inl ⟨hreset, hR.programStep s t h⟩
  · cases h

/-- No operation writes the configuration. -/
theorem sameConfig_stepClosed : StepClosed (fun s t => t.cfg = s.cfg) where
  refl _ := rfl
  trans h k := k.trans h
  perform _ _ _ h := (perform_frame h).1.cfg
  beginAction into a s := (beginAction_frame into a s).1.cfg
  enterHandler _ _ := rfl
  setZone _ _ := rfl
  setSeq _ _ := rfl
  setScript _ _ := rfl
  latch _ := rfl

/-- Settles O3: a reset keeps the configuration too. -/
theorem noStepWritesTheConfiguration : Obligations.NoStepWritesTheConfiguration := by
  intro s t h
  rcases sameConfig_stepClosed.step h with ⟨-, hcfg⟩ | ⟨u, -, hcfg, rfl⟩
  · exact hcfg
  · exact hcfg

/-- Time has not fallen and the trace has only grown (R21, R35). -/
def Later (s t : State) : Prop := s.time ≤ t.time ∧ ∃ evs, t.trace = s.trace ++ evs

theorem Later.of_sameTrace {s t : State} (ht : s.time ≤ t.time) (h : t.trace = s.trace) : Later s t := ⟨ht, [], by simp [h]⟩

theorem perform_later (a : Action) : Keeps Later (perform a) := by
  intro s t h
  refine ⟨(perform_frame h).2.2, ?_⟩
  by_cases ha : a = .sample
  · subst ha
    obtain ⟨v, -, htrace⟩ := perform_sample_trace h
    exact ⟨_, htrace⟩
  · obtain ⟨evs, htrace, -⟩ := (perform_appends h ha).2
    exact ⟨evs, htrace⟩

theorem later_stepClosed : StepClosed Later where
  refl s := .of_sameTrace le_rfl rfl
  trans := by
    rintro s t u ⟨hst, evs, ht⟩ ⟨htu, evs', hu⟩
    exact ⟨hst.trans htu, evs ++ evs', by rw [hu, ht, List.append_assoc]⟩
  perform := perform_later
  beginAction into a s := by
    rcases beginAction_cases into a s with ⟨d, -, h⟩ | h <;> rw [h]
    · exact ⟨Nat.le_add_right _ _, _, rfl⟩
    · exact .of_sameTrace le_rfl rfl
  enterHandler _ s := .of_sameTrace (Nat.le_add_right s.time _) rfl
  setZone _ _ := .of_sameTrace le_rfl rfl
  setSeq _ _ := .of_sameTrace le_rfl rfl
  setScript _ _ := .of_sameTrace le_rfl rfl
  latch _ := .of_sameTrace le_rfl rfl

/-- Settles O4: what every operation keeps, where no reset is asked for. -/
theorem timeNeverFallsAndTheTraceOnlyGrows : Obligations.TimeNeverFallsAndTheTraceOnlyGrows := by
  intro s t hreset h
  rcases later_stepClosed.step h with ⟨-, hlater⟩ | ⟨u, hasked, -⟩
  · exact hlater
  · exact absurd hreset hasked

/-! ## Who writes each register -/

/-- The procedures that move the shadow cursor: `gotoPosition` and those that call it (R16, R59). -/
def movesCursor : Instr → Prop
  | .gotoPos _ _ | .init | .writeAt _ _ _ | .render _ _ | .banner | .hInc | .hDec | .hReset | .hExpose => True
  | _ => False

/-- The actions an instruction may perform beside the nibbles it sends: each register is written by the instructions the spec
names for it. POLL and BOOT, which run a phase, stand apart. -/
def mayPerform (i : Instr) : Action → Prop
  | .wait _ | .note _ => True
  | .drive l v  => i = .drive l v ∨ (l = .relay ∧ i ∈ [.hExpose, .hIdle])
  | .sample     => i = .sample
  | .classify   => i = .classify
  | .setEt _    => i ∈ [.hInc, .hDec, .hReset]
  | .setCur _ _ => movesCursor i
  | .setTick _  => i = .hExpose

theorem Action.isPause.mayPerform {a : Action} (h : a.isPause) (i : Instr) : mayPerform i a := by
  cases a with
  | wait d | note k => trivial
  | _ => exact h.elim

theorem Action.isDriver.mayPerform {a : Action} {i : Instr} (hi : movesCursor i) (h : a.isDriver) : mayPerform i a := by
  cases a with
  | wait d | note k => trivial
  | setCur c l => exact hi
  | _ => exact h.elim

theorem Action.inHandler.mayPerform {cfg : Config} {et : Seconds} {z : Zone} {a : Action} (h : a.inHandler cfg et z) :
    mayPerform (handlerOf z) a := by
  cases z with
  | idle => cases h; exact .inr ⟨rfl, by simp [handlerOf]⟩
  | increment | decrement | reset =>
    rcases h with hd | rfl
    · exact hd.mayPerform trivial
    · simp [Machine.mayPerform, handlerOf]
  | expose =>
    rcases h with hd | rfl | rfl | ⟨v, rfl⟩
    · exact hd.mayPerform trivial
    · exact .inr ⟨rfl, by simp [handlerOf]⟩
    · exact .inr ⟨rfl, by simp [handlerOf]⟩
    · rfl

/-- The lists of the instructions that perform one. -/
theorem meaningOf_list_nibbled {cfg : Config} {et : Seconds} {i : Instr} {as : List Action}
    (h : meaningOf cfg et i = .list (.ok as)) : Nibbled cfg (mayPerform i) as := by
  have transfer {bs : List Action} (k : Nibbled cfg Action.isPause bs) : Nibbled cfg (mayPerform i) bs :=
    k.mono fun _ ha => ha.mayPerform i
  have driver {bs : List Action} (hi : movesCursor i) (k : Nibbled cfg Action.isDriver bs) : Nibbled cfg (mayPerform i) bs :=
    k.mono fun _ ha => ha.mayPerform hi
  have handler {z : Zone} (hi : i = handlerOf z) (k : handlerActions cfg et z = .ok as) : Nibbled cfg (mayPerform i) as := by
    rw [hi]
    exact (handlerActions_nibbled k).mono fun _ ha => ha.mayPerform
  cases i with
  | busWord rs n | sendNib rs n =>
    cases h
    have hn := transfer (.nibble rs n .nil)
    rwa [List.append_nil] at hn
  | bytePair | sendByte | cmdClear | cmdReset | cmdEntryMode | cmdDisplayCtrl | cmdFunctionSet | cmdSetDdram | data | putCmd
  | putChar => cases h; exact transfer (sendByteActions_nibbled _ _ _)
  | putStr str => cases h; exact transfer (putStringActions_nibbled cfg str)
  | wait d => cases h; exact .singleton trivial
  | gotoPos c l => cases h; exact driver trivial (gotoActions_nibbled cfg c l)
  | init => cases h; exact driver trivial (initActions_nibbled cfg)
  | writeAt c l str => cases h; exact driver trivial (writeAtActions_nibbled cfg c l str)
  | render l str =>
    rw [meaningOf] at h
    split at h <;> cases h
    exact driver trivial (renderActions_nibbled cfg l str)
  | banner => cases h; exact driver trivial (bannerActions_nibbled cfg)
  | hInc => exact handler (z := .increment) rfl (by injection h)
  | hDec => exact handler (z := .decrement) rfl (by injection h)
  | hReset => exact handler (z := .reset) rfl (by injection h)
  | hExpose => exact handler (z := .expose) rfl (by injection h)
  | hIdle => exact handler (z := .idle) rfl (by injection h)
  | drive l v =>
    rw [meaningOf] at h
    split at h
    · cases h
    · split at h <;> cases h
  | _ => cases h

theorem meaningOf_one_mayPerform {cfg : Config} {et : Seconds} {i : Instr} {a : Action} (h : meaningOf cfg et i = .one a) :
    mayPerform i a := by
  cases i with
  | drive l v =>
    rw [meaningOf] at h
    split at h
    · cases h; exact .inl rfl
    · split at h <;> cases h
  | sample | classify => cases h; rfl
  | note k => cases h; trivial
  | render l str =>
    rw [meaningOf] at h
    split at h <;> cases h
  | _ => cases h

/-- The instructions of the zone codes (R47). -/
def zoneInstrs : List Instr := [.zoneIdle, .zoneIncrement, .zoneDecrement, .zoneReset, .zoneExpose]

/-- The meanings that are no list and no single action belong to one row each, or to the zone codes. -/
theorem meaningOf_phase {cfg : Config} {et : Seconds} {i : Instr} :
    (meaningOf cfg et i = .poll → i = .poll) ∧ (meaningOf cfg et i = .boot → i = .boot) ∧
      ∀ z, meaningOf cfg et i = .enter z → i ∈ zoneInstrs := by
  cases i with
  | drive l v =>
    rw [meaningOf]
    split
    · simp
    · split <;> simp
  | render l str =>
    rw [meaningOf]
    split <;> simp
  | _ => simp [meaningOf, zoneInstrs]

/-- The actions of a nibble: drives of the bus, and waits (R51). -/
def Action.inNibble : Action → Prop
  | .drive l _ => l ≠ .relay
  | .wait _    => True
  | .sample | .note _ | .classify | .setEt _ | .setCur _ _ | .setTick _ => False

theorem sendNibbleActions_inNibble (cfg : Config) (rs : RegSel) (n : Nibble) : ∀ a ∈ sendNibbleActions cfg rs n, a.inNibble := by
  simp [sendNibbleActions, Action.inNibble]

/-- WHAT AN INSTRUCTION CAN DO: actions it may perform and nibbles, or the transfer a zone code stands for, or a whole phase. -/
theorem exec_next_cases {i : Instr} {s t : State} (h : exec i s = .next t) :
    (∃ as, (∀ a ∈ as, mayPerform i a ∨ a.inNibble) ∧ runActions as s = .next t) ∨
    (i ∈ zoneInstrs ∧ ∃ z, t = enterHandler z (s.setZone (zoneCode z))) ∨ i = .poll ∨
    (i = .boot ∧ ∃ u, runActions (bootActions s.cfg) s.latch = .next u ∧ t = u.setSeq (.poll 0)) := by
  obtain ⟨hpoll, hboot, hzone⟩ := meaningOf_phase (cfg := s.cfg) (et := s.et) (i := i)
  rw [exec_eq_run] at h
  cases hm : meaningOf s.cfg s.et i with rw [hm] at h
  | list x =>
    cases x with
    | ok as =>
      exact .inl ⟨as, (meaningOf_list_nibbled hm).forall_mem (fun _ => .inl)
        fun rs n a ha => .inr (sendNibbleActions_inNibble _ rs n a ha), h⟩
    | error e => cases h
  | one a => exact .inl ⟨[a], by simpa using .inl (meaningOf_one_mayPerform hm), (runActions_singleton a s).trans h⟩
  | enter z => cases h; exact .inr (.inl ⟨hzone z hm, z, rfl⟩)
  | poll => exact .inr (.inr (.inl (hpoll hm)))
  | boot =>
    obtain ⟨u, hu, ht⟩ := andThen_eq_next.1 h
    cases ht
    exact .inr (.inr (.inr ⟨hboot hm, u, hu, rfl⟩))
  | faults x | refuses x => cases h

/-! ### Lists of actions that leave a register alone -/

theorem runActions_keeps {α : Type} (f : State → α) {as : List Action}
    (hf : ∀ a ∈ as, ∀ s t, perform a s = .next t → f t = f s) {s t : State} (h : runActions as s = .next t) : f t = f s := by
  induction as generalizing s with
  | nil => cases h; rfl
  | cons a as ih =>
    obtain ⟨ha, has⟩ := List.forall_mem_cons.1 hf
    obtain ⟨u, hu, ht⟩ := andThen_eq_next.1 h
    exact (ih has ht).trans (ha s u hu)

section
variable {a : Action} {s t : State} (h : perform a s = .next t)
include h

theorem perform_lineLevel_of_not_driven {l : Line} (ha : ∀ v, a ≠ .drive l v) : t.lineLevel l = s.lineLevel l := by
  rw [perform_lineLevel h l fun v hv => absurd hv (ha v)]
  exact levelAfter_of_not_driven (by simpa using ha) _

theorem perform_relay (ha : ∀ v, a ≠ .drive .relay v) : t.relay = s.relay :=
  eq_of_levelOfBit_eq (perform_lineLevel_of_not_driven h (l := .relay) ha)

theorem perform_sameBus (ha : ∀ l v, l ≠ .relay → a ≠ .drive l v) : sameBus s t :=
  have level (l : Line) (hl : l ≠ .relay) := perform_lineLevel_of_not_driven h (l := l) fun v => ha l v hl
  ⟨level .db (by decide), eq_of_levelOfBit_eq (level .rs (by decide)), eq_of_levelOfBit_eq (level .rw (by decide)),
    eq_of_levelOfBit_eq (level .e (by decide))⟩

theorem perform_sample (ha : a ≠ .sample) : t.sample = s.sample := by
  cases a with
  | sample => exact absurd rfl ha
  | classify =>
    rw [perform] at h
    rcases classifyPrim_cases s with ⟨-, hp⟩ | ⟨v, -, hp⟩ <;> rw [hp] at h <;> cases h
    rfl
  | _ => exact (perform_quantizer h rfl).1

theorem perform_zone (ha : a ≠ .classify) : t.zone = s.zone := by
  cases a with
  | classify => exact absurd rfl ha
  | sample =>
    rw [perform] at h
    rcases samplePrim_cases s with ⟨-, hp⟩ | ⟨v, vs, -, -, hp⟩ | ⟨v, vs, -, -, hp⟩ <;> rw [hp] at h <;> cases h <;> rfl
  | _ => exact (perform_quantizer h rfl).2.1

end

/-- BOOT's list keeps everything beyond the display (R95). -/
theorem boot_sameBeyondDisplay {s u : State} (h : runActions (bootActions s.cfg) s.latch = .next u) :
    SameBeyondDisplay s.latch u := by
  refine runActions_displayOnly (List.all_eq_true.2 ?_) h
  refine (bootActions_nibbled s.cfg).forall_mem (fun a ha => ?_) fun rs n => List.all_eq_true.1 (sendNibble_displayOnly _ rs n)
  cases a with
  | wait d | note k | setCur c l => rfl
  | _ => exact ha.elim

/-! ### The instructions, register by register -/

section
variable {i : Instr} {s t : State} (h : exec i s = .next t)
include h

theorem exec_relay_of_not_writer (hi : i ∉ [.hExpose, .hIdle, .poll]) (hd : ∀ v, i ≠ .drive .relay v) : t.relay = s.relay := by
  rcases exec_next_cases h with ⟨as, has, hrun⟩ | ⟨-, z, rfl⟩ | rfl | ⟨rfl, u, hu, rfl⟩
  · refine runActions_keeps State.relay (fun a ha s t ht => perform_relay ht ?_) hrun
    rintro v rfl
    rcases has _ ha with (hv | ⟨-, hm⟩) | hn
    · exact hd v hv
    · exact hi (by simp_all)
    · exact hn rfl
  · rfl
  · simp at hi
  · exact (boot_sameBeyondDisplay hu).relay

theorem exec_et_of_not_writer (hi : i ∉ [.hInc, .hDec, .hReset, .poll]) : t.et = s.et := by
  rcases exec_next_cases h with ⟨as, has, hrun⟩ | ⟨-, z, rfl⟩ | rfl | ⟨rfl, u, hu, rfl⟩
  · refine runActions_keeps State.et (fun a ha s t ht => perform_et ht ?_) hrun
    rintro v rfl
    rcases has _ ha with hm | hn
    · exact hi (by simp_all [mayPerform])
    · exact hn
  · rfl
  · simp at hi
  · exact (boot_sameBeyondDisplay hu).et

theorem exec_cursor_of_not_writer (hi : i ∉ [.boot, .poll]) (hm : ¬ movesCursor i) : sameCursor s t := by
  rcases exec_next_cases h with ⟨as, has, hrun⟩ | ⟨-, z, rfl⟩ | rfl | ⟨rfl, -⟩
  · refine runActions_cur (fun a ha c l hc => ?_) hrun
    subst hc
    rcases has _ ha with hc | hn
    · exact hm hc
    · exact hn
  · exact ⟨rfl, rfl⟩
  · simp at hi
  · simp at hi

theorem exec_sample_of_not_writer (hi : i ∉ [.sample, .poll]) : t.sample = s.sample := by
  rcases exec_next_cases h with ⟨as, has, hrun⟩ | ⟨-, z, rfl⟩ | rfl | ⟨rfl, u, hu, rfl⟩
  · refine runActions_keeps State.sample (fun a ha s t ht => perform_sample ht ?_) hrun
    rintro rfl
    rcases has _ ha with hm | hn
    · exact hi (by simp_all [mayPerform])
    · exact hn
  · rfl
  · simp at hi
  · exact (boot_sameBeyondDisplay hu).quantizer.1

theorem exec_zone_of_not_writer (hi : i ∉ .classify :: .poll :: zoneInstrs) : t.zone = s.zone := by
  rcases exec_next_cases h with ⟨as, has, hrun⟩ | ⟨hz, -⟩ | rfl | ⟨rfl, u, hu, rfl⟩
  · refine runActions_keeps State.zone (fun a ha s t ht => perform_zone ht ?_) hrun
    rintro rfl
    rcases has _ ha with hm | hn
    · exact hi (by simp_all [mayPerform])
    · exact hn
  · exact absurd (List.mem_cons_of_mem _ (List.mem_cons_of_mem _ hz)) hi
  · simp at hi
  · exact (boot_sameBeyondDisplay hu).quantizer.2.1

theorem exec_tick_of_not_writer (hi : i ∉ [.hExpose, .poll]) : t.tick = s.tick := by
  rcases exec_next_cases h with ⟨as, has, hrun⟩ | ⟨-, z, rfl⟩ | rfl | ⟨rfl, u, hu, rfl⟩
  · refine runActions_keeps State.tick (fun a ha s t ht => perform_tick ht ?_) hrun
    rintro v rfl
    rcases has _ ha with hm | hn
    · exact hi (by simp_all [mayPerform])
    · exact hn
  · rfl
  · simp at hi
  · exact (boot_sameBeyondDisplay hu).tick

theorem exec_seq_of_not_writer (hi : i ∉ .boot :: .poll :: zoneInstrs) : t.seq = s.seq := by
  rcases exec_next_cases h with ⟨as, -, hrun⟩ | ⟨hz, -⟩ | rfl | ⟨rfl, -⟩
  · obtain ⟨-, ⟨hseq, -⟩, -⟩ := runActions_frame hrun
    exact hseq
  · exact absurd (List.mem_cons_of_mem _ (List.mem_cons_of_mem _ hz)) hi
  · simp at hi
  · simp at hi

/-- The instructions of one action that is no drive of the bus, and the zone codes, leave the bus alone. -/
theorem exec_sameBus (hi : i ∈ .sample :: .classify :: .hIdle :: zoneInstrs ∨ (∃ d, i = .wait d) ∨ ∃ k, i = .note k) :
    sameBus s t := by
  have zone {z : Zone} (hz : dispatch (s.setZone (zoneCode z)) = .next t) : sameBus s t := by
    obtain ⟨-, -, -, -, rfl⟩ := dispatch_next_iff.1 hz
    exact ⟨rfl, rfl, rfl, rfl⟩
  have action {a : Action} (ha : perform a s = .next t) (hl : ∀ l v, l ≠ .relay → a ≠ .drive l v) : sameBus s t :=
    perform_sameBus ha hl
  rcases hi with hi | ⟨d, rfl⟩ | ⟨k, rfl⟩
  · simp only [zoneInstrs, List.mem_cons, List.not_mem_nil, or_false] at hi
    rcases hi with rfl | rfl | rfl | rfl | rfl | rfl | rfl | rfl
    · exact action (a := .sample) h (by simp)
    · exact action (a := .classify) h (by simp)
    · exact action (a := .drive .relay 0) h fun l v hl he => hl (by cases he; rfl)
    · exact zone (z := .idle) h
    · exact zone (z := .increment) h
    · exact zone (z := .decrement) h
    · exact zone (z := .reset) h
    · exact zone (z := .expose) h
  · exact action (a := .wait d) h (by simp)
  · exact action (a := .note k) h (by simp)

end

/-- Settles O44: register by register; the rows a clause names are those whose meaning may perform the register's write. -/
theorem eachRegisterHasOnlyItsWriters : Obligations.EachRegisterHasOnlyItsWriters := by
  intro i s t h
  refine ⟨exec_relay_of_not_writer h, exec_et_of_not_writer h, fun hi hgoto hwrite hrender => ?_, exec_sample_of_not_writer h,
    exec_zone_of_not_writer h, exec_tick_of_not_writer h, exec_seq_of_not_writer h, exec_sameBus h⟩
  refine exec_cursor_of_not_writer h (by simp_all) ?_
  cases i with
  | gotoPos c l => exact absurd rfl (hgoto c l)
  | writeAt c l str => exact absurd rfl (hwrite c l str)
  | render l str => exact absurd rfl (hrender l str)
  | _ => simp_all [movesCursor]

/-! ## Observations decide nothing -/

/-- Two answers that differ at most in observations: the same stop, or next states that differ in no more. -/
inductive Alike : Result → Result → Prop
  | next {s t : State} (h : SameButObserved s t) : Alike (.next s) (.next t)
  | fault (x : Fault) : Alike (.fault x) (.fault x)
  | refused (x : Refusal) : Alike (.refused x) (.refused x)

/-- An operation answers alike from states that differ at most in observations. -/
def Blind (f : State → Result) : Prop := ∀ s s', SameButObserved s s' → Alike (f s) (f s')

theorem Alike.andThen {r r' : Result} {f g : State → Result} (h : Alike r r')
    (hf : ∀ s t, SameButObserved s t → Alike (f s) (g t)) : Alike (andThen r f) (andThen r' g) := by
  cases h with
  | next h => exact hf _ _ h
  | fault x => exact .fault x
  | refused x => exact .refused x

theorem Blind.andThen {f g : State → Result} (hf : Blind f) (hg : Blind g) : Blind (fun s => andThen (f s) g) :=
  fun s s' h => (hf s s' h).andThen hg

/-! ### The updates of the state -/

namespace SameButObserved

variable {s s' : State} (h : SameButObserved s s')
include h

theorem record (ev ev' : Event) : SameButObserved (s.record ev) (s'.record ev') := { h with }

/-- How long an action lasts may differ; that it takes one draw does not. -/
theorem elapse (d d' : Nat) : SameButObserved (s.elapse d) (s'.elapse d') := { h with env := by simp [State.elapse, h.env] }

theorem passTime : SameButObserved s.passTime s'.passTime := h.elapse _ _

theorem setLine (l : Line) (v : Nibble) : SameButObserved (s.setLine l v) (s'.setLine l v) := by
  obtain ⟨hdb, hrs, hrw, he⟩ := h.bus
  cases l with
  | db => exact { h with bus := ⟨rfl, hrs, hrw, he⟩ }
  | rs => exact { h with bus := ⟨hdb, rfl, hrw, he⟩ }
  | rw => exact { h with bus := ⟨hdb, hrs, rfl, he⟩ }
  | e => exact { h with bus := ⟨hdb, hrs, hrw, rfl⟩ }
  | relay => exact { h with relay := rfl }

theorem setEt (v : Seconds) : SameButObserved (s.setEt v) (s'.setEt v) := { h with et := rfl }
theorem setCur (c : Nibble) (l : Bit) : SameButObserved (s.setCur c l) (s'.setCur c l) := { h with }
theorem setSample (v : Nat) : SameButObserved (s.setSample v) (s'.setSample v) := { h with sample := rfl }
theorem setZone (c : ZoneCode) : SameButObserved (s.setZone c) (s'.setZone c) := { h with zone := rfl }
theorem setTick (v : Seconds) : SameButObserved (s.setTick v) (s'.setTick v) := { h with tick := rfl }
theorem setSeq (q : Seq) : SameButObserved (s.setSeq q) (s'.setSeq q) := { h with seq := rfl }
theorem latch : SameButObserved s.latch s'.latch := { h with phaseEt := h.et }
theorem setScript (ops : List Encoded) : SameButObserved (s.setScript ops) (s'.setScript ops) := { h with script := rfl }
theorem setSamples (vs : List Nat) : SameButObserved (s.setSamples vs) (s'.setSamples vs) :=
  { h with env := by simp [State.setSamples, h.env] }

theorem enterHandler (z : Zone) : SameButObserved (enterHandler z s) (enterHandler z s') := (h.setSeq _).passTime

theorem takeReset : SameButObserved (takeReset s) (takeReset s') := by
  rw [takeReset_eq, takeReset_eq, h.cfg, h.env, h.script]
  exact ⟨rfl, ⟨rfl, rfl, rfl, rfl⟩, rfl, rfl, rfl, rfl, rfl, rfl, rfl, rfl, rfl⟩

theorem atPhaseStart : SameButObserved s.atPhaseStart s'.atPhaseStart := by
  unfold State.atPhaseStart
  rw [h.seq]
  split
  · exact h.latch
  · exact h

theorem runningList : s'.runningList = s.runningList := by
  rw [State.runningList, State.runningList, h.cfg, h.seq, h.phaseEt, h.sample]

theorem phaseList : s'.phaseList = s.phaseList := h.atPhaseStart.runningList

theorem nextAction : s'.nextAction = s.nextAction := by rw [State.nextAction, State.nextAction, h.phaseList, h.seq]

theorem beginAction (into : Nat) (a : Option Action) : SameButObserved (beginAction into a s) (beginAction into a s') := by
  unfold Machine.beginAction
  split
  · exact (h.record _ _).elapse _ _
  all_goals exact h

end SameButObserved

/-! ### The operations -/

theorem readSample_alike {s s' : State} (h : SameButObserved s s') (v : Nat) :
    SameButObserved (readSample v s) (readSample v s') :=
  ((h.record _ _).setSample v).passTime

theorem freeSample_eq {s s' : State} (h : SameButObserved s s') : s'.freeSample = s.freeSample := by
  rw [State.freeSample, State.freeSample, h.cfg, h.env]

theorem samplePrim_blind : Blind samplePrim := by
  intro s s' h
  unfold samplePrim
  rw [h.env, h.cfg, freeSample_eq h]
  split
  · exact .next (readSample_alike h _)
  · split
    · exact .next (readSample_alike (h.setSamples _) _)
    · exact .refused _

theorem classifyPrim_blind : Blind classifyPrim := by
  intro s s' h
  unfold classifyPrim
  rw [h.sample, h.cfg]
  split
  · exact .fault _
  · exact .next (h.setZone _).passTime

theorem perform_blind (a : Action) : Blind (perform a) := by
  intro s s' h
  cases a with
  | drive l v => exact .next ((h.record _ _).setLine l v).passTime
  | wait d => exact .next ((h.record _ _).elapse _ _)
  | sample => exact samplePrim_blind s s' h
  | note k => exact .next (h.record _ _).passTime
  | classify => exact classifyPrim_blind s s' h
  | setEt v => exact .next (h.setEt v).passTime
  | setCur c l => exact .next (h.setCur c l).passTime
  | setTick v => exact .next (h.setTick v).passTime

theorem runActions_blind (as : List Action) : Blind (runActions as) := by
  induction as with
  | nil => exact fun _ _ h => .next h
  | cons a as ih => exact (perform_blind a).andThen ih

theorem runExpansion_blind (x : Expansion) : Blind (runExpansion x) := by
  cases x with
  | ok as => exact runActions_blind as
  | error e => exact fun _ _ _ => .fault e

theorem dispatch_blind : Blind dispatch := by
  intro s s' h
  unfold dispatch
  rw [h.zone]
  split
  · exact .fault _
  · split
    · exact .fault _
    · exact .next (h.enterHandler _)

theorem leavePhase_blind : Blind leavePhase := by
  intro s s' h
  unfold leavePhase
  rw [h.seq]
  split
  · exact .next (h.setSeq _)
  · exact .next (h.setSeq _)
  · exact dispatch_blind s s' h

theorem advance_blind (k : Nat) : Blind (advance k) := by
  intro s s' h
  unfold advance
  rw [h.runningList, h.seq]
  split
  · split
    · exact .next (h.setSeq _)
    · exact leavePhase_blind s s' h
  · exact .fault _

theorem programStep_blind : Blind programStep := by
  intro s s' h
  unfold programStep
  rw [h.phaseList, h.seq]
  split
  · exact .fault _
  · split
    · exact (perform_blind _ _ _ h.atPhaseStart).andThen (advance_blind _)
    · exact leavePhase_blind s s' h

theorem noteSample_blind : Blind noteSample := by
  intro s s' h
  unfold noteSample
  rw [h.sample]
  exact runActions_blind _ s s' h

theorem runHandler_blind : Blind runHandler := by
  intro s s' h
  unfold runHandler
  rw [h.seq, h.cfg, h.et]
  split
  · exact (runExpansion_blind _ _ _ h.latch).andThen fun _ _ h => .next (h.setSeq _)
  · exact .next h
  · exact .next h

theorem execPoll_blind : Blind execPoll := fun _ _ h =>
  (((runActions_blind _ _ _ h.latch).andThen noteSample_blind).andThen dispatch_blind).andThen runHandler_blind

theorem execBoot_blind : Blind execBoot := by
  intro s s' h
  unfold execBoot
  rw [h.cfg]
  exact (runActions_blind _ _ _ h.latch).andThen fun _ _ h => .next (h.setSeq _)

theorem Meaning.run_blind (m : Meaning) : Blind m.run := by
  cases m with
  | list x => exact runExpansion_blind x
  | one a => exact perform_blind a
  | enter z => exact fun _ _ h => .next ((h.setZone _).enterHandler z)
  | poll => exact execPoll_blind
  | boot => exact execBoot_blind
  | faults x => exact fun _ _ _ => .fault x
  | refuses x => exact fun _ _ _ => .refused x

theorem exec_blind (i : Instr) : Blind (exec i) := by
  intro s s' h
  rw [exec_eq_run, exec_eq_run, h.cfg, h.et]
  exact Meaning.run_blind _ s s' h

theorem scriptStep_blind (op : Encoded) (rest : List Encoded) : Blind (scriptStep op rest) := by
  intro s s' h
  unfold scriptStep
  split
  · exact exec_blind _ _ _ (h.setScript rest)
  · exact .refused _

/-! ### Operations up to a point -/

theorem partOfActions_blind (p : ResetPoint) (as : List Action) : Blind (partOfActions p as) := fun _ _ h =>
  (runActions_blind _ _ _ h).andThen fun _ _ h => .next (h.beginAction _ _)

theorem partOfExpansion_blind (p : ResetPoint) (x : Expansion) : Blind (partOfExpansion p x) := by
  intro s s' h
  unfold partOfExpansion
  split
  · exact partOfActions_blind p _ s s' h
  · split
    · exact .next h
    · exact .fault _

theorem programPart_blind (k : Nat) : Blind (programPart k) := by
  induction k with
  | zero => exact fun _ _ h => .next h
  | succ k ih =>
    refine programStep_blind.andThen fun s s' h => ?_
    rw [h.seq]
    split
    · exact .next h
    · exact ih s s' h

theorem partOfProgram_blind (p : ResetPoint) : Blind (partOfProgram p) := by
  refine (programPart_blind _).andThen fun s s' h => ?_
  rw [h.nextAction]
  exact .next (h.beginAction _ _)

theorem Meaning.part_blind (p : ResetPoint) (m : Meaning) : Blind (m.part p) := by
  have whole : Blind (fun s => if p.after = 0 then .next s else m.run s) := by
    intro s s' h
    split
    · exact .next h
    · exact m.run_blind s s' h
  cases m with
  | list x => exact partOfExpansion_blind p x
  | poll => exact fun _ _ h => partOfProgram_blind p _ _ (h.setSeq _)
  | boot => exact fun _ _ h => partOfProgram_blind p _ _ (h.setSeq _)
  | one _ | enter _ | faults _ | refuses _ => exact whole

theorem abandoned_blind (p : ResetPoint) : Blind (abandoned p) := by
  intro s s' h
  unfold abandoned
  rw [h.script, h.nextAction]
  split
  · exact .next h
  · split
    · split
      · rw [partOfOperation_eq_part, partOfOperation_eq_part, (h.setScript _).cfg, (h.setScript _).et]
        exact Meaning.part_blind p _ _ _ (h.setScript _)
      · exact .next h
    · split
      · exact .next (h.beginAction _ _)
      · exact programStep_blind s s' h

theorem step_blind : Blind step := by
  intro s s' h
  unfold step
  rw [h.cfg, h.env, h.script]
  split
  · split
    · exact (abandoned_blind _ s s' h).andThen fun _ _ h => .next h.takeReset
    · split
      · exact scriptStep_blind _ _ s s' h
      · exact programStep_blind s s' h
  · exact .refused _

/-- Settles O45: a step answers alike, whichever way it goes. -/
theorem observationsDecideNothing : Obligations.ObservationsDecideNothing := by
  intro s s' h
  have halike := step_blind s s' h
  refine ⟨fun t ht => ?_, fun x hx => ?_, fun x hx => ?_⟩
  · rw [ht] at halike
    cases hs : step s' with rw [hs] at halike
    | next t' => cases halike with | next k => exact ⟨t', rfl, k⟩
    | _ => cases halike
  · rw [hx] at halike
    cases hs : step s' with rw [hs] at halike
    | _ => cases halike <;> rfl
  · rw [hx] at halike
    cases hs : step s' with rw [hs] at halike
    | _ => cases halike <;> rfl

end Sys2Proof.Machine
end

section
/-!
PROOFS of the obligations of spec/20_memory.md: the trace stays in the order of time (R21, R35), and the reference display follows
the bytes it is sent (R37 to R39), so that INIT brings it into step (R60, R100).
-/

namespace Sys2Proof.Machine

/-! ## The order of the trace -/

/-- An action appends at most one event, and that one is stamped with the time at which the action is performed (R22). -/
theorem perform_trace_cases {a : Action} {s t : State} (h : perform a s = .next t) :
    t.trace = s.trace ∨ ∃ ev : Event, ev.time = s.time ∧ t.trace = s.trace ++ [ev] := by
  cases a with
  | drive l v =>
    obtain ⟨u, hu, htrace, -⟩ := drive_step l v s
    cases hu.symm.trans h
    exact .inr ⟨_, rfl, htrace⟩
  | wait d => cases h; exact .inr ⟨.wait d s.time, rfl, rfl⟩
  | note k => cases h; exact .inr ⟨.err k s.time, rfl, rfl⟩
  | sample =>
    obtain ⟨v, -, htrace⟩ := perform_sample_trace h
    exact .inr ⟨_, rfl, htrace⟩
  | classify | setEt | setCur | setTick => exact .inl (perform_registerWrite_trace (by simp) h)

/-- Only an event stamped now is added, and time does not fall: the order is kept. -/
theorem traceOrdered.grow {s t : State} (hs : traceOrdered s) (htime : s.time ≤ t.time)
    (h : t.trace = s.trace ∨ ∃ ev : Event, ev.time = s.time ∧ t.trace = s.trace ++ [ev]) : traceOrdered t := by
  obtain ⟨hsorted, hpast⟩ := hs
  have hpast' : ∀ ev ∈ s.trace, ev.time ≤ t.time := fun ev hev => (hpast ev hev).trans htime
  rcases h with h | ⟨ev, hnow, h⟩
  · exact ⟨by rwa [h], by rwa [h]⟩
  · refine ⟨?_, ?_⟩
    · rw [h, List.map_append, List.pairwise_append]
      exact ⟨hsorted, by simp, by simpa [hnow] using hpast⟩
    · rw [h]
      exact List.forall_mem_append.2 ⟨hpast', by simpa [hnow] using htime⟩

/-- No operation breaks the order of the trace. -/
theorem traceOrdered_stepClosed : StepClosed (fun s t => traceOrdered s → traceOrdered t) where
  refl _ := id
  trans h k := k ∘ h
  perform _ _ _ h hs := hs.grow (perform_frame h).2.2 (perform_trace_cases h)
  beginAction into a s hs := by
    rcases beginAction_cases into a s with ⟨d, -, h⟩ | h <;> rw [h]
    · exact hs.grow (Nat.le_add_right _ _) (.inr ⟨.wait d s.time, rfl, rfl⟩)
    · exact hs
  enterHandler _ s hs := hs.grow (Nat.le_add_right s.time _) (.inl rfl)
  setZone _ _ := id
  setSeq _ _ := id
  setScript _ _ := id
  latch _ := id

/-- Settles O5: every operation keeps the order, and a reset leaves the empty trace. -/
theorem everyStepKeepsTheTraceInTimeOrder : Obligations.EveryStepKeepsTheTraceInTimeOrder := by
  intro s t hs h
  rcases traceOrdered_stepClosed.step h with ⟨-, hkeeps⟩ | ⟨u, -, -, rfl⟩
  · exact hkeeps hs
  · exact ⟨.nil, by simp [takeReset, State.atReset]⟩

/-! ## The display reads signals: the times of the events do not matter to it -/

/-- An event that has the signal. -/
def Signal.event : Signal → Event
  | .set l v  => .set l v 0
  | .wait d   => .wait d 0
  | .sample v => .sample v 0
  | .err k    => .err k 0

/-- The lines and the display after events with these signals (`observe_eq_observeSignals`). -/
def observeSignals (w : DisplayDraws) (sigs : List Signal) (x : BusLines × Display) : BusLines × Display :=
  observe w (sigs.map Signal.event) x

section
variable (w : DisplayDraws) (x : BusLines × Display)

theorem busEvent_event_signal (ev : Event) : busEvent w ev.signal.event x = busEvent w ev x := by
  cases ev with
  | set l v t => cases l <;> rfl
  | wait | sample | err => rfl

theorem observe_eq_observeSignals (evs : List Event) : observe w evs x = observeSignals w (evs.map Event.signal) x := by
  simp only [observeSignals, observe, List.map_map, List.foldl_map, Function.comp_apply, busEvent_event_signal]

theorem observeSignals_append (xs ys : List Signal) :
    observeSignals w (xs ++ ys) x = observeSignals w ys (observeSignals w xs x) := by
  simp [observeSignals, observe]

@[simp] theorem observeSignals_nil : observeSignals w [] x = x := rfl

@[simp] theorem observeSignals_wait (d : Nat) (sigs : List Signal) :
    observeSignals w (.wait d :: sigs) x = observeSignals w sigs x := rfl

variable (cfg : Config)

/-- One enable pulse gives the display its nibble, whatever the lines were before (R32, R38, R51). -/
theorem observeSignals_nibble (rs : RegSel) (n : Nibble) :
    (observeSignals w (nibbleSignals cfg rs n) x).2 = takeNibble w (rsBit rs) n x.2 := by
  have hrs : bitLevel (levelOfBit (rsBit rs)) = rsBit rs := bitLevel_levelOfBit _
  have hone : bitLevel 1#4 = 1#1 := rfl
  have hzero : bitLevel 0#4 = 0#1 := rfl
  simp [observeSignals, observe, nibbleSignals, Signal.event, busEvent, hrs, hone, hzero]

/-- A byte gives the display its two nibbles, the high one first (R29, R53). -/
theorem observeSignals_byte (rs : RegSel) (v : Byte) :
    (observeSignals w (byteSignals cfg rs v) x).2
      = takeNibble w (rsBit rs) (lowNibble v) (takeNibble w (rsBit rs) (highNibble v) x.2) := by
  simp only [byteSignals, observeSignals_wait, observeSignals_append, observeSignals_nibble]

end

/-! ## The display in 4-bit mode -/

/-- The two halves of a byte make the byte. -/
theorem highNibble_append_lowNibble (v : Byte) : highNibble v ++ lowNibble v = v := by revert v; decide

/-- The display takes nibbles in pairs, and the next one is the first of its byte (R38). -/
def Display.betweenBytes (d : Display) : Prop := d.mode = .four ∧ d.half = none

/-- Between bytes a display in 4-bit mode takes a byte as it is sent (R38, R39). -/
theorem Display.betweenBytes.observeSignals_byte {x : BusLines × Display} (hx : x.2.betweenBytes) (w : DisplayDraws) (cfg : Config)
    (rs : RegSel) (v : Byte) : (observeSignals w (byteSignals cfg rs v) x).2 = takeByte w (rsBit rs) v x.2 := by
  obtain ⟨lines, d⟩ := x
  obtain ⟨hmode, hhalf⟩ := hx
  cases d
  cases hmode
  cases hhalf
  rw [Machine.observeSignals_byte]
  exact congrArg (takeByte w (rsBit rs) · _) (highNibble_append_lowNibble v)

/-- Command bytes that leave the display between bytes are taken one after the other. -/
theorem Display.betweenBytes.observeSignals_commands (w : DisplayDraws) (cfg : Config) {bytes : List Byte}
    (hkeep : ∀ v ∈ bytes, ∀ d : Display, d.betweenBytes → (takeCommand w v d).betweenBytes) {x : BusLines × Display}
    (hx : x.2.betweenBytes) :
    (observeSignals w (commandSignals cfg bytes) x).2 = bytes.foldl (fun d v => takeCommand w v d) x.2 := by
  induction bytes generalizing x with
  | nil => rfl
  | cons v bytes ih =>
    have hbyte : (observeSignals w (byteSignals cfg .command v) x).2 = takeCommand w v x.2 :=
      hx.observeSignals_byte w cfg .command v
    rw [commandSignals, List.flatMap_cons, observeSignals_append, List.foldl_cons, ← hbyte]
    exact ih (fun b hb => hkeep b (List.mem_cons_of_mem v hb)) (hbyte ▸ hkeep v List.mem_cons_self x.2 hx)

/-! ## The first byte, which finds the display in 8-bit mode (R37, R38, R100) -/

/-- The fields that the first byte of INIT leaves alone, whatever the unconnected inputs make of it. -/
structure SameBeyondModes (d d' : Display) : Prop where
  half    : d'.half = d.half
  shifted : d'.shifted = d.shifted
  length  : d'.cells.length = d.cells.length

theorem SameBeyondModes.trans {d d' d'' : Display} (h : SameBeyondModes d d') (k : SameBeyondModes d' d'') : SameBeyondModes d d'' :=
  ⟨k.half.trans h.half, k.shifted.trans h.shifted, k.length.trans h.length⟩

/-- The four high bits of a byte are those of its high nibble. -/
theorem getLsbD_append_high (high low : Nibble) :
    (high ++ low).getLsbD 7 = high.getLsbD 3 ∧ (high ++ low).getLsbD 6 = high.getLsbD 2 ∧
      (high ++ low).getLsbD 5 = high.getLsbD 1 ∧ (high ++ low).getLsbD 4 = high.getLsbD 0 := by
  simp only [BitVec.getLsbD_append]
  exact ⟨rfl, rfl, rfl, rfl⟩

section
variable (w : DisplayDraws) {d : Display} (h : d.mode = .eight)
include h

/-- In 8-bit mode a command nibble is a whole byte, its low half from the unconnected inputs (R38). -/
theorem takeNibble_eight (n : Nibble) :
    takeNibble w 0 n d = takeCommand w (n ++ w.lowInput d.lowInputs) { d with lowInputs := d.lowInputs + 1 } := by
  simp only [takeNibble, h]
  rfl

/-- A command byte 0x0y is none of those that select the interface width or shift the display (R39). -/
theorem takeNibble_eight_zero : (takeNibble w 0 0#4 d).mode = .eight ∧ SameBeyondModes d (takeNibble w 0 0#4 d) := by
  obtain ⟨h7, h6, h5, h4⟩ := getLsbD_append_high 0#4 (w.lowInput d.lowInputs)
  simp only [takeNibble_eight w h, takeCommand, h7, h6, h5, h4, BitVec.getLsbD_zero, Bool.false_eq_true, if_false]
  split_ifs <;> exact ⟨h, rfl, rfl, by simp⟩

/-- A command byte 0x2y selects the 4-bit interface (R39). -/
theorem takeNibble_eight_two : (takeNibble w 0 2#4 d).mode = .four ∧ SameBeyondModes d (takeNibble w 0 2#4 d) := by
  obtain ⟨h7, h6, h5, h4⟩ := getLsbD_append_high 2#4 (w.lowInput d.lowInputs)
  simp only [takeNibble_eight w h, takeCommand, h7, h6, h5, h4]
  exact ⟨rfl, rfl, rfl, rfl⟩

end

/-- CMD_RESET finds the display in 8-bit mode: its nibbles 0 and 2 bring the display to 4-bit mode, between bytes (R37 to R39). -/
theorem observeSignals_firstByte (w : DisplayDraws) (cfg : Config) {x : BusLines × Display} (hmode : x.2.mode = .eight)
    (hhalf : x.2.half = none) :
    (observeSignals w (byteSignals cfg .command 0x02) x).2.betweenBytes ∧
      SameBeyondModes x.2 (observeSignals w (byteSignals cfg .command 0x02) x).2 := by
  rw [observeSignals_byte]
  obtain ⟨hstays, hsame⟩ := takeNibble_eight_zero w hmode
  obtain ⟨hfour, hsame'⟩ := takeNibble_eight_two w hstays
  have hall := hsame.trans hsame'
  exact ⟨⟨hfour, hall.half.trans hhalf⟩, hall⟩

/-! ## INIT -/

/-- Where the first cell is in range, the signals of INIT are those of its sequence (R60). -/
theorem initActions_signals {cfg : Config} (h : positionInRange cfg 0 0 = true) :
    (initActions cfg).flatMap Action.signals = initSignals cfg := by
  simp [initActions, gotoActions, h, putCommandActions, initSignals, commandSignals, gotoSignals, Action.signals]

theorem initActions_ne_sample (cfg : Config) : ∀ a ∈ initActions cfg, a ≠ .sample :=
  (initActions_nibbled cfg).forall_mem (fun a ha => by rintro rfl; exact ha) fun _ _ => by simp [sendNibbleActions]

/-- The display that the commands of INIT after the first one, and the address of the first cell, leave of a display between
bytes (R39, R60). -/
def Display.initialised (d : Display) : Display :=
  { d with ac := 0, cells := List.replicate d.cells.length 0x20, id := 1, sh := 0, on := 1, cursor := 0, blink := 0, twoLines := 1,
           font := 0 }

/-- The command bytes of INIT after the first one, with the default parameters (R60, R81). -/
def initCommands : List Byte := [0x28, 0x0C, 0x06, 0x01, 0x80]

theorem initSignals_default : initSignals Config.default =
    .wait Config.default.tPowerup :: (byteSignals Config.default .command 0x02 ++ commandSignals Config.default initCommands
      ++ [.wait Config.default.tSettle]) := rfl

theorem initCommands_betweenBytes (w : DisplayDraws) :
    ∀ v ∈ initCommands, ∀ d : Display, d.betweenBytes → (takeCommand w v d).betweenBytes := by
  simp only [initCommands, List.forall_mem_cons]
  exact ⟨fun d h => ⟨rfl, h.2⟩, fun d h => h, fun d h => h, fun d h => h, fun d h => h, by simp⟩

theorem foldl_initCommands (w : DisplayDraws) {d : Display} (h : d.betweenBytes) :
    initCommands.foldl (fun d v => takeCommand w v d) d = d.initialised := by
  obtain ⟨hmode, hhalf⟩ := h
  cases d
  cases hmode
  rfl

/-- What the display has become after INIT from reset. -/
theorem display_after_init {w : DisplayDraws} {d : Display} {env : Env} {t : State} (hd : d.poweredOn = true)
    (h : exec .init (State.atReset Config.default env []) = .next t) :
    ∃ d' : Display, d'.betweenBytes ∧ d'.cells.length = 128 ∧ d'.shifted = d.shifted ∧ t.display w d = d'.initialised := by
  simp only [Display.poweredOn, Bool.and_eq_true, decide_eq_true_eq] at hd
  obtain ⟨⟨hmode, hhalf⟩, hcells⟩ := hd
  rw [exec_init] at h
  obtain ⟨evs, htrace, hsignals, -⟩ := runActions_appends h (initActions_ne_sample _)
  obtain ⟨hbetween, hsame⟩ := observeSignals_firstByte w Config.default (x := (BusLines.atReset, d)) hmode hhalf
  refine ⟨_, hbetween, hsame.length.trans hcells, hsame.shifted, ?_⟩
  have hevs : t.trace = evs := htrace
  have hinit : evs.map Event.signal = initSignals Config.default := hsignals.trans (initActions_signals rfl)
  rw [State.display, hevs, observe_eq_observeSignals, hinit, initSignals_default, observeSignals_wait, observeSignals_append,
    observeSignals_append, observeSignals_wait, observeSignals_nil,
    hbetween.observeSignals_commands w _ (initCommands_betweenBytes w), foldl_initCommands w hbetween]

/-- Settles O59: the first byte leaves the display between bytes in 4-bit mode, and the other commands set its fields. -/
theorem initBringsTheDisplayIntoStep : Obligations.InitBringsTheDisplayIntoStep := by
  intro w d env t hd h
  obtain ⟨d', ⟨hmode, hhalf⟩, hcells, hshifted, hdisplay⟩ := display_after_init (w := w) hd h
  rw [hdisplay]
  refine ⟨?_, rfl, rfl, rfl, rfl, hshifted, ?_⟩
  · simp [Display.inStep, Display.initialised, hmode, hhalf, hcells]
  · simp [Display.initialised, hcells]

end Sys2Proof.Machine
end

section
/-!
PROOFS of the obligations of spec/30_encoding.md: the decoder reads back what the encoder writes and accepts nothing else than
well-formed instructions (R42 to R50), the bit-level rows and the zone codes as instructions, the script's next operation, and the
bytes that the block's own program sends (R43 to R46, R81).
-/

namespace Sys2Proof

/-! ## Bit patterns -/

theorem rsOfBit_rsBit (rs : RegSel) : rsOfBit (rsBit rs) = rs := by cases rs <;> rfl

/-- The fields of a bus word (R42). -/
theorem busWordBits_fields (rs : RegSel) (n : Nibble) :
    (busWordBits rs n).extractLsb' 5 1 = rsBit rs ∧ (busWordBits rs n).extractLsb' 4 1 = (0 : Bit) ∧
      (busWordBits rs n).extractLsb' 0 4 = n := by
  revert n; cases rs <;> decide

theorem decodeBusWord_busWordBits (rs : RegSel) (n : Nibble) : decodeBusWord (busWordBits rs n) = .ok (.busWord rs n) := by
  obtain ⟨hrs, hrw, hn⟩ := busWordBits_fields rs n
  simp [decodeBusWord, hrs, hrw, hn, rsOfBit_rsBit]

/-- The two words of a pair lie one above the other (R43). -/
theorem extractLsb'_wordPair (x y : BitVec 6) (i len : Nat) :
    (x ++ y : BitVec 12).extractLsb' (6 + i) len = x.extractLsb' i len ∧
      (i + len ≤ 6 → (x ++ y : BitVec 12).extractLsb' i len = y.extractLsb' i len) := by
  refine ⟨?_, BitVec.extractLsb'_append_eq_of_add_le⟩
  rw [BitVec.extractLsb'_append_eq_of_le (Nat.le_add_right 6 i), Nat.add_sub_cancel_left]

theorem decodeBytePair_bytePairBits (rs : RegSel) (v : Byte) : decodeBytePair (bytePairBits rs v) = .ok (.bytePair rs v) := by
  obtain ⟨hrsHigh, hrwHigh, hHigh⟩ := busWordBits_fields rs (highNibble v)
  obtain ⟨hrsLow, hrwLow, hLow⟩ := busWordBits_fields rs (lowNibble v)
  have high (i len) := (extractLsb'_wordPair (busWordBits rs (highNibble v)) (busWordBits rs (lowNibble v)) i len).1
  have low (i len) := (extractLsb'_wordPair (busWordBits rs (highNibble v)) (busWordBits rs (lowNibble v)) i len).2
  rw [decodeBytePair, bytePairBits, high 4 1, high 5 1, high 0 4, low 4 1 (by decide), low 5 1 (by decide), low 0 4 (by decide)]
  simp [hrsHigh, hrwHigh, hHigh, hrsLow, hrwLow, hLow, rsOfBit_rsBit, Machine.highNibble_append_lowNibble]

theorem decodeCmdByte_cmdResetByte (x : Bit) : decodeCmdByte (cmdResetByte x) = .ok (.cmdReset x) := by
  revert x; decide

theorem decodeCmdByte_cmdEntryModeByte (i sh : Bit) : decodeCmdByte (cmdEntryModeByte i sh) = .ok (.cmdEntryMode i sh) := by
  revert i sh; decide

theorem decodeCmdByte_cmdDisplayCtrlByte (d c b : Bit) :
    decodeCmdByte (cmdDisplayCtrlByte d c b) = .ok (.cmdDisplayCtrl d c b) := by
  revert d c b; decide

theorem decodeCmdByte_cmdFunctionSetByte (l n f : Bit) :
    decodeCmdByte (cmdFunctionSetByte l n f) = .ok (.cmdFunctionSet l n f) := by
  revert l n f; decide

theorem decodeCmdByte_cmdSetDdramByte (a : BitVec 7) : decodeCmdByte (cmdSetDdramByte a) = .ok (.cmdSetDdram a) := by
  revert a; decide

theorem zoneOfCode_of_reserved {c : ZoneCode} (h : 5 ≤ c.toNat) : zoneOfCode c = none := by revert c; decide

theorem decodeZoneCode_of_reserved {c : ZoneCode} (h : 5 ≤ c.toNat) : decodeZoneCode c = .zoneReserved c := by
  rw [decodeZoneCode, zoneOfCode_of_reserved h]

/-! ## How a line of a script is read back -/

/-- The text goes on with nothing that `p` holds of. -/
def stopsAt (p : Byte → Bool) (rest : List Byte) : Prop := ∀ c ∈ rest.head?, p c = false

section
variable {p : Byte → Bool} {word rest : List Byte} (hword : ∀ c ∈ word, p c = true) (hrest : stopsAt p rest)
include hword hrest

theorem takeWhile_append_of_stopsAt : (word ++ rest).takeWhile p = word := by
  rw [List.takeWhile_append_of_pos hword]
  cases rest with
  | nil => simp
  | cons c cs => simp [show p c = false from hrest c rfl]

theorem dropWhile_append_of_stopsAt : (word ++ rest).dropWhile p = rest := by
  rw [List.dropWhile_append_of_pos hword]
  cases rest with
  | nil => rfl
  | cons c cs => simp [show p c = false from hrest c rfl]

end

theorem skipBlanks_of_stopsAt {l : List Byte} (h : stopsAt isBlank l) : skipBlanks l = l :=
  dropWhile_append_of_stopsAt (word := []) (by simp) h

theorem stopsAt.mono {p q : Byte → Bool} {l : List Byte} (hpq : ∀ c, q c = true → p c = true) (h : stopsAt p l) :
    stopsAt q l := by
  intro c hc
  cases hq : q c with
  | false => rfl
  | true => exact absurd (h c hc) (by simp [hpq c hq])

/-! ### Characters -/

theorem isWordChar_of_isDigit {c : Byte} (h : isDigit c = true) : isWordChar c = true := by simp [isWordChar, h]

theorem not_isBlank_of_isWordChar : ∀ {c : Byte}, isWordChar c = true → isBlank c = false := by decide
theorem ne_marks_of_isWordChar : ∀ {c : Byte}, isWordChar c = true → c ≠ quoteCode ∧ c ≠ 0x27 ∧ c ≠ 0x3B := by decide

theorem isDigit_ofNat {d : Nat} (h : d < 10) : isDigit (BitVec.ofNat 8 (0x30 + d)) = true := by
  interval_cases d <;> rfl

theorem digitValue_ofNat {d : Nat} (h : d < 10) : (BitVec.ofNat 8 (0x30 + d)).toNat - 0x30 = d := by
  interval_cases d <;> rfl

/-! ### Numbers -/

theorem digitsUpTo_isDigit (fuel n : Nat) : ∀ c ∈ digitsUpTo fuel n, isDigit c = true := by
  induction fuel generalizing n with
  | zero => simp [digitsUpTo]
  | succ fuel ih =>
    rw [digitsUpTo, List.forall_mem_cons]
    refine ⟨isDigit_ofNat (Nat.mod_lt n (by decide)), ?_⟩
    split
    · simp
    · exact ih _

/-- The digits are those of the number, where their bound is above it. -/
theorem digitsUpTo_value {fuel n : Nat} (h : n < fuel) :
    (digitsUpTo fuel n).foldr (fun d acc => 10 * acc + (d.toNat - 0x30)) 0 = n := by
  induction fuel generalizing n with
  | zero => omega
  | succ fuel ih =>
    rw [digitsUpTo, List.foldr_cons, digitValue_ofNat (Nat.mod_lt n (by decide))]
    split
    · simp only [List.foldr_nil]; omega
    · rw [ih (by omega)]; omega

theorem decimalValue_numText (n : Nat) : decimalValue (numText n) = n := by
  rw [decimalValue, numText, List.foldl_reverse]
  exact digitsUpTo_value (Nat.lt_succ_self n)

theorem numText_isDigit (n : Nat) : ∀ c ∈ numText n, isDigit c = true := by
  simpa [numText] using digitsUpTo_isDigit (n + 1) n

theorem numText_eq_cons (n : Nat) : ∃ d ds, numText n = d :: ds :=
  List.exists_cons_of_ne_nil (by simp [numText, digitsUpTo])

/-! ### Operands -/

/-- The operands that a line of a script can hold: a name is a word that does not begin with a digit, a string holds no double quote
(R48). -/
def Operand.writable : Operand → Prop
  | .num _  => True
  | .name w => ∃ c cs, w = c :: cs ∧ isDigit c = false ∧ ∀ b ∈ w, isWordChar b = true
  | .chr _  => True
  | .str s  => quotable s = true

theorem quotable_iff {s : List Byte} : quotable s = true ↔ ∀ c ∈ s, (c != quoteCode) = true := List.all_eq_true

/-- An operand's text begins with a character that is neither a blank nor a semicolon. -/
theorem operandText_head {op : Operand} (h : op.writable) :
    ∃ c cs, operandText op = c :: cs ∧ isBlank c = false ∧ c ≠ 0x3B := by
  have word {c : Byte} (hc : isWordChar c = true) : isBlank c = false ∧ c ≠ 0x3B :=
    ⟨not_isBlank_of_isWordChar hc, (ne_marks_of_isWordChar hc).2.2⟩
  cases op with
  | num n =>
    obtain ⟨d, ds, hn⟩ := numText_eq_cons n
    exact ⟨d, ds, hn, word (isWordChar_of_isDigit (numText_isDigit n d (by simp [hn])))⟩
  | name w =>
    obtain ⟨c, cs, rfl, -, hw⟩ := h
    exact ⟨c, cs, rfl, word (hw c (by simp))⟩
  | chr c => exact ⟨0x27, _, rfl, by decide, by decide⟩
  | str s => exact ⟨0x22, _, rfl, by decide, by decide⟩

theorem parseStr_text {s rest : List Byte} (h : quotable s = true) :
    parseStr (s ++ quoteCode :: rest) = .ok (.str s, rest) := by
  have hstop : stopsAt (fun c => c != quoteCode) (quoteCode :: rest) := by simp [stopsAt]
  rw [parseStr, takeWhile_append_of_stopsAt (quotable_iff.1 h) hstop, dropWhile_append_of_stopsAt (quotable_iff.1 h) hstop]

/-- Reading back the text of an operand, up to where no word goes on. -/
theorem parseOperand_operandText {op : Operand} {rest : List Byte} (h : op.writable) (hrest : stopsAt isWordChar rest) :
    parseOperand (operandText op ++ rest) = .ok (op, rest) := by
  cases op with
  | num n =>
    have hdigits := numText_isDigit n
    have hvalue := decimalValue_numText n
    obtain ⟨d, ds, hn⟩ := numText_eq_cons n
    rw [hn] at hdigits hvalue
    obtain ⟨hd, hds⟩ := List.forall_mem_cons.1 hdigits
    obtain ⟨hquote, hsingle, -⟩ := ne_marks_of_isWordChar (isWordChar_of_isDigit hd)
    have hstop : stopsAt isDigit rest := hrest.mono fun _ => isWordChar_of_isDigit
    have hhex : ¬ (d = 0x30 ∧ (ds ++ rest).head? = some 0x78) := by
      rintro ⟨-, hx⟩
      cases ds with
      | nil => exact absurd (hrest _ hx) (by decide)
      | cons b bs => cases hx; exact absurd (hds 0x78 (by simp)) (by decide)
    rw [operandText, hn, List.cons_append, parseOperand, if_neg hquote, if_neg hsingle, if_neg hhex, if_pos hd,
      takeWhile_append_of_stopsAt hds hstop, dropWhile_append_of_stopsAt hds hstop, hvalue]
  | name w =>
    obtain ⟨c, cs, rfl, hdigit, hw⟩ := h
    obtain ⟨hc, hcs⟩ := List.forall_mem_cons.1 hw
    obtain ⟨hquote, hsingle, -⟩ := ne_marks_of_isWordChar hc
    have hzero : c ≠ 0x30 := by rintro rfl; exact absurd hdigit (by decide)
    rw [operandText, List.cons_append, parseOperand, if_neg hquote, if_neg hsingle, if_neg fun hx => hzero hx.1,
      if_neg (by simp [hdigit]), if_pos hc, takeWhile_append_of_stopsAt hcs hrest, dropWhile_append_of_stopsAt hcs hrest]
  | chr c => rfl
  | str s =>
    have htext : operandText (.str s) ++ rest = quoteCode :: (s ++ quoteCode :: rest) := by simp [operandText]
    rw [htext, parseOperand, if_pos rfl, parseStr_text h]

/-! ### Operand lists -/

theorem parseOperandList_blank (fuel : Nat) (l : List Byte) :
    parseOperandList fuel (0x20 :: l) = parseOperandList fuel l := by
  cases fuel with
  | zero => rfl
  | succ fuel =>
    have hskip : skipBlanks (0x20 :: l) = skipBlanks l := rfl
    rw [parseOperandList, parseOperandList, hskip]

theorem operandText_stopsAt_blank {op : Operand} (h : op.writable) (rest : List Byte) :
    stopsAt isBlank (operandText op ++ rest) := by
  obtain ⟨c, cs, htext, hc, -⟩ := operandText_head h
  rw [htext]
  rintro _ ⟨⟩
  exact hc

theorem parseOperandList_last {fuel : Nat} {l : List Byte} {op : Operand} (h : parseOperand (skipBlanks l) = .ok (op, [])) :
    parseOperandList (fuel + 1) l = .ok [op] := by
  rw [parseOperandList, h]
  rfl

theorem parseOperandList_comma {fuel : Nat} {l rest : List Byte} {op : Operand} {ops : List Operand}
    (h : parseOperand (skipBlanks l) = .ok (op, 0x2C :: rest)) (hrest : parseOperandList fuel rest = .ok ops) :
    parseOperandList (fuel + 1) l = .ok (op :: ops) := by
  have hskip : skipBlanks (0x2C :: rest) = 0x2C :: rest := rfl
  rw [parseOperandList, h]
  simp only [hskip, hrest]
  rfl

/-- Where the bound is at least their number, the operands are read back. -/
theorem parseOperandList_operandsText {ops : List Operand} {fuel : Nat} (hne : ops ≠ []) (hfuel : ops.length ≤ fuel)
    (h : ∀ op ∈ ops, op.writable) : parseOperandList fuel (operandsText ops) = .ok ops := by
  induction ops generalizing fuel with
  | nil => exact absurd rfl hne
  | cons op ops ih =>
    obtain ⟨hop, hops⟩ := List.forall_mem_cons.1 h
    obtain ⟨fuel, rfl⟩ : ∃ k, fuel = k + 1 := Nat.exists_eq_succ_of_ne_zero (by simp at hfuel; omega)
    have hread {rest : List Byte} (hrest : stopsAt isWordChar rest) :
        parseOperand (skipBlanks (operandText op ++ rest)) = .ok (op, rest) := by
      rw [skipBlanks_of_stopsAt (operandText_stopsAt_blank hop rest)]
      exact parseOperand_operandText hop hrest
    cases ops with
    | nil =>
      have hlast := hread (rest := []) (by simp [stopsAt])
      rw [List.append_nil] at hlast
      exact parseOperandList_last hlast
    | cons op' ops =>
      have hrest : parseOperandList fuel (0x20 :: operandsText (op' :: ops)) = .ok (op' :: ops) :=
        (parseOperandList_blank fuel _).trans (ih (by simp) (by simpa using hfuel) hops)
      have hcomma := parseOperandList_comma
        (hread (rest := 0x2C :: 0x20 :: operandsText (op' :: ops)) (by rintro _ ⟨⟩; rfl)) hrest
      have htext : operandsText (op :: op' :: ops) = operandText op ++ 0x2C :: 0x20 :: operandsText (op' :: ops) := by
        simp [operandsText]
      rwa [htext]

theorem length_le_operandsText {ops : List Operand} (h : ∀ op ∈ ops, op.writable) :
    ops.length ≤ (operandsText ops).length := by
  induction ops with
  | nil => simp
  | cons op ops ih =>
    obtain ⟨hop, hops⟩ := List.forall_mem_cons.1 h
    obtain ⟨c, cs, htext, -⟩ := operandText_head hop
    cases ops with
    | nil => simp [operandsText, htext]
    | cons op' ops => have := ih hops; simp [operandsText, htext] at this ⊢; omega

theorem operandsText_head {op : Operand} (ops : List Operand) (h : op.writable) :
    ∃ c cs, operandsText (op :: ops) = c :: cs ∧ isBlank c = false ∧ c ≠ 0x3B := by
  obtain ⟨c, cs, htext, hc⟩ := operandText_head h
  cases ops with
  | nil => exact ⟨c, cs, htext, hc⟩
  | cons op' ops => exact ⟨c, cs ++ 0x2C :: 0x20 :: operandsText (op' :: ops), by simp [operandsText, htext], hc⟩

theorem parseOperands_operandsText {ops : List Operand} (hne : ops ≠ []) (h : ∀ op ∈ ops, op.writable) :
    parseOperands (0x20 :: operandsText ops) = .ok ops := by
  have hlength := length_le_operandsText h
  have hread := parseOperandList_operandsText (fuel := (operandsText ops).length) hne hlength h
  cases ops with
  | nil => exact absurd rfl hne
  | cons op ops =>
    obtain ⟨c, cs, htext, hblank, hcomment⟩ := operandsText_head ops (List.forall_mem_cons.1 h).1
    have hskip : skipBlanks (0x20 :: c :: cs) = c :: cs := skipBlanks_of_stopsAt (l := c :: cs) (by rintro _ ⟨⟩; exact hblank)
    rw [htext] at hread ⊢
    rw [parseOperands, hskip]
    exact (if_neg hcomment).trans hread

/-! ### Lines -/

theorem Mnemonic.ofSpelling_spelling (m : Mnemonic) : Mnemonic.ofSpelling m.spelling = some m := by cases m <;> decide

theorem Mnemonic.spelling_isWordChar (m : Mnemonic) : ∀ c ∈ m.spelling, isWordChar c = true := by cases m <;> decide

theorem Mnemonic.spelling_ne_nil (m : Mnemonic) : m.spelling ≠ [] := by cases m <;> simp [spelling, codes]

/-- The line of a mnemonic and its operands is decoded as the instruction they make. -/
theorem decodeLine_lineText (m : Mnemonic) {ops : List Operand} (h : ∀ op ∈ ops, op.writable) :
    decodeLine (lineText m ops) = buildInstr m ops := by
  obtain ⟨rest, htext, hstop, hoperands⟩ : ∃ rest, lineText m ops = m.spelling ++ rest ∧ stopsAt isWordChar rest ∧
      parseOperands rest = .ok ops := by
    cases ops with
    | nil => exact ⟨[], by simp [lineText], by simp [stopsAt], rfl⟩
    | cons op ops =>
      exact ⟨0x20 :: operandsText (op :: ops), by simp [lineText], by rintro _ ⟨⟩; rfl,
        parseOperands_operandsText (by simp) h⟩
  have hblank : stopsAt isBlank (m.spelling ++ rest) := by
    obtain ⟨c, cs, hm⟩ := List.exists_cons_of_ne_nil m.spelling_ne_nil
    have hc := m.spelling_isWordChar c (by simp [hm])
    rw [hm]
    rintro _ ⟨⟩
    exact not_isBlank_of_isWordChar hc
  rw [htext, decodeLine, skipBlanks_of_stopsAt hblank]
  simp only [takeWhile_append_of_stopsAt m.spelling_isWordChar hstop, dropWhile_append_of_stopsAt m.spelling_isWordChar hstop,
    Mnemonic.ofSpelling_spelling, hoperands]

theorem decode_operation (m : Mnemonic) {ops : List Operand} (h : ∀ op ∈ ops, op.writable) :
    decode (operation m ops) = buildInstr m ops := decodeLine_lineText m h

/-! ### Operands of each kind -/

@[simp] theorem ok_bind {ε α β : Type} (x : α) (f : α → Except ε β) : (Except.ok x >>= f) = f x := rfl

theorem bind_eq_ok {ε α β : Type} {x : Except ε α} {f : α → Except ε β} {y : β} :
    (x >>= f) = .ok y ↔ ∃ a, x = .ok a ∧ f a = .ok y := by
  cases x with
  | ok a => simp
  | error e => exact iff_of_false nofun (by simp)

@[simp] theorem asLine_lineSpelling (l : Line) : asLine (.name (lineSpelling l)) = .ok l := by cases l <;> rfl
@[simp] theorem asErrKind_errKindSpelling (k : ErrKind) : asErrKind (.name (errKindSpelling k)) = .ok k := by cases k <;> rfl
@[simp] theorem asRegSel_regSelSpelling (rs : RegSel) : asRegSel (.name (regSelSpelling rs)) = .ok rs := by cases rs <;> rfl
@[simp] theorem asNum_num (n : Nat) : asNum (.num n) = .ok n := rfl

theorem asNumBelow_num {n bound : Nat} (h : n < bound) (err : ScriptError) : asNumBelow bound err (.num n) = .ok n := if_pos h

@[simp] theorem num_writable (n : Nat) : (Operand.num n).writable := trivial
@[simp] theorem chr_writable (c : Byte) : (Operand.chr c).writable := trivial
@[simp] theorem str_writable {s : List Byte} : (Operand.str s).writable ↔ quotable s = true := .rfl

@[simp] theorem lineSpelling_writable (l : Line) : (Operand.name (lineSpelling l)).writable := by
  cases l <;> exact ⟨_, _, rfl, by decide⟩
@[simp] theorem errKindSpelling_writable (k : ErrKind) : (Operand.name (errKindSpelling k)).writable := by
  cases k <;> exact ⟨_, _, rfl, by decide⟩
@[simp] theorem regSelSpelling_writable (rs : RegSel) : (Operand.name (regSelSpelling rs)).writable := by
  cases rs <;> exact ⟨_, _, rfl, by decide⟩

/-! ### Every instruction is read back -/

theorem decode_operation_of_build {m : Mnemonic} {ops : List Operand} {i : Instr} (hops : ∀ op ∈ ops, op.writable)
    (h : buildInstr m ops = .ok i) : decode (operation m ops) = .ok i := (decode_operation m hops).trans h

theorem decode_drive (l : Line) (v : Nibble) : decode (encode (.drive l v)) = buildDrive l v.toNat :=
  (decode_operation .drive (by simp)).trans (by simp [buildInstr])

theorem decode_render (l : Nat) {s : List Byte} (h : quotable s = true) : decode (encode (.render l s)) = buildRender l s :=
  decode_operation .render (by simp [h])

theorem buildDrive_of_levelAdmitted {l : Line} {v : Nibble} (h : levelAdmitted l v = true) :
    buildDrive l v.toNat = .ok (.drive l v) := by simp [buildDrive, h, v.isLt]

/-- Settles O48: the bit patterns by their fields, the operations by their line and their operands. -/
theorem decodeEncodeRoundTrip : Obligations.DecodeEncodeRoundTrip := by
  intro i hi
  cases i with
  | busWord rs n => exact decodeBusWord_busWordBits rs n
  | bytePair rs v => exact decodeBytePair_bytePairBits rs v
  | cmdReset x => exact decodeCmdByte_cmdResetByte x
  | cmdEntryMode i sh => exact decodeCmdByte_cmdEntryModeByte i sh
  | cmdDisplayCtrl d c b => exact decodeCmdByte_cmdDisplayCtrlByte d c b
  | cmdFunctionSet l n f => exact decodeCmdByte_cmdFunctionSetByte l n f
  | cmdSetDdram a => exact decodeCmdByte_cmdSetDdramByte a
  | cmdClear | data | zoneIdle | zoneIncrement | zoneDecrement | zoneReset | zoneExpose => rfl
  | zoneReserved c => exact congrArg Except.ok (decodeZoneCode_of_reserved (of_decide_eq_true hi))
  | drive l v => exact (decode_drive l v).trans (buildDrive_of_levelAdmitted hi)
  | note k => exact decode_operation_of_build (by simp) (by simp [buildInstr])
  | sendNib rs n => exact decode_operation_of_build (by simp) (by simp [buildInstr, asNumBelow_num n.isLt])
  | sendByte rs v => exact decode_operation_of_build (by simp) (by simp [buildInstr, asNumBelow_num v.isLt])
  | putCmd v => exact decode_operation_of_build (by simp) (by simp [buildInstr, asNumBelow_num v.isLt])
  | putStr s | writeAt c l s =>
    have hs : quotable s = true := hi
    exact decode_operation_of_build (by simp [hs]) rfl
  | render l s =>
    obtain ⟨hquotable, hlength⟩ := (Bool.and_eq_true _ _).mp hi
    exact (decode_render l hquotable).trans (if_pos (of_decide_eq_true hlength))
  | wait | putChar | gotoPos => exact decode_operation_of_build (by simp) rfl
  | sample | init | classify | poll | hInc | hDec | hReset | hExpose | hIdle | banner | boot =>
    exact decode_operation_of_build (by simp) rfl

/-! ## What the decoder accepts -/

theorem parseStr_writable {l rest : List Byte} {op : Operand} (h : parseStr l = .ok (op, rest)) : op.writable := by
  unfold parseStr at h
  split at h <;> cases h
  exact List.all_takeWhile

theorem parseChr_writable {l rest : List Byte} {op : Operand} (h : parseChr l = .ok (op, rest)) : op.writable := by
  unfold parseChr at h
  split at h
  · split at h <;> cases h
    trivial
  all_goals cases h

theorem parseHex_writable {l rest : List Byte} {op : Operand} (h : parseHex l = .ok (op, rest)) : op.writable := by
  unfold parseHex at h
  split at h <;> cases h
  trivial

/-- Whatever the text, an operand read from it is one that can be written back. -/
theorem parseOperand_writable {l rest : List Byte} {op : Operand} (h : parseOperand l = .ok (op, rest)) : op.writable := by
  cases l with
  | nil => cases h
  | cons c l =>
    rw [parseOperand] at h
    split_ifs at h with hquote hsingle hhex hdigit hword
    · exact parseStr_writable h
    · exact parseChr_writable h
    · exact parseHex_writable h
    · cases h; trivial
    · cases h
      exact ⟨c, _, rfl, by simpa using hdigit, List.forall_mem_cons.2 ⟨hword, fun b hb => List.mem_takeWhile_imp hb⟩⟩

theorem parseOperandList_writable {fuel : Nat} {l : List Byte} {ops : List Operand} (h : parseOperandList fuel l = .ok ops) :
    ∀ op ∈ ops, op.writable := by
  induction fuel generalizing l ops with
  | zero => cases h
  | succ fuel ih =>
    rw [parseOperandList] at h
    split at h
    · cases h
    next op rest hop =>
    have hwritable := parseOperand_writable hop
    split at h
    · cases h; simpa
    split_ifs at h
    · cases h; simpa
    split at h <;> cases h
    next hrest => exact List.forall_mem_cons.2 ⟨hwritable, ih hrest⟩

theorem parseOperands_writable {l : List Byte} {ops : List Operand} (h : parseOperands l = .ok ops) :
    ∀ op ∈ ops, op.writable := by
  unfold parseOperands at h
  split at h
  · cases h; simp
  split_ifs at h
  · cases h; simp
  · exact parseOperandList_writable h

/-- A line that is accepted is its mnemonic's instruction of operands that can be written back. -/
theorem decodeLine_eq_ok {line : List Byte} {i : Instr} (h : decodeLine line = .ok i) :
    ∃ m ops, (∀ op ∈ ops, op.writable) ∧ buildInstr m ops = .ok i := by
  unfold decodeLine at h
  simp only at h
  split at h
  · cases h
  split at h
  · cases h
  next m _ _ ops hops => exact ⟨m, ops, parseOperands_writable hops, h⟩

theorem buildDrive_wf {l : Line} {v : Nat} {i : Instr} (h : buildDrive l v = .ok i) : i.wf = true := by
  unfold buildDrive at h
  split_ifs at h with hadmitted
  cases h
  exact hadmitted.2

theorem buildRender_wf {l : Nat} {s : List Byte} {i : Instr} (hs : quotable s = true) (h : buildRender l s = .ok i) :
    i.wf = true := by
  unfold buildRender at h
  split_ifs at h with hlength
  cases h
  simp [Instr.wf, hs, hlength]

theorem buildPlain_eq_ok {i j : Instr} {ops : List Operand} (h : buildPlain i ops = .ok j) : j = i := by
  cases ops <;> cases h
  rfl

theorem asStr_eq_ok {op : Operand} {s : List Byte} (h : asStr op = .ok s) : op = .str s := by
  cases op <;> cases h
  rfl

/-- Operands that can be written make only well-formed instructions. -/
theorem buildInstr_wf {m : Mnemonic} {ops : List Operand} {i : Instr} (hops : ∀ op ∈ ops, op.writable)
    (h : buildInstr m ops = .ok i) : i.wf = true := by
  have text {op : Operand} {s : List Byte} (hs : asStr op = .ok s) (hop : op.writable) : quotable s = true := by
    cases asStr_eq_ok hs; exact hop
  unfold buildInstr at h
  split at h
  case h_1 => -- DRIVE
    obtain ⟨l, -, hv⟩ := bind_eq_ok.1 h
    obtain ⟨v, -, hbuild⟩ := bind_eq_ok.1 hv
    exact buildDrive_wf hbuild
  case h_15 s => -- PUTSTR
    obtain ⟨str, hs, ⟨⟩⟩ := bind_eq_ok.1 h
    exact text hs (hops s (by simp))
  case h_19 s => -- WRITEAT
    obtain ⟨c, -, hl⟩ := bind_eq_ok.1 h
    obtain ⟨l, -, hstr⟩ := bind_eq_ok.1 hl
    obtain ⟨str, hs, ⟨⟩⟩ := bind_eq_ok.1 hstr
    exact text hs (hops s (by simp))
  case h_21 s => -- RENDER
    obtain ⟨l, -, hstr⟩ := bind_eq_ok.1 h
    obtain ⟨str, hs, hbuild⟩ := bind_eq_ok.1 hstr
    exact buildRender_wf (text hs (hops s (by simp))) hbuild
  case h_3 | h_5 | h_11 | h_13 => -- one operand: WAIT, NOTE, PUTCMD, PUTCHAR
    obtain ⟨x, -, ⟨⟩⟩ := bind_eq_ok.1 h
    rfl
  case h_7 | h_9 | h_17 => -- two operands: SENDNIB, SENDBYTE, GOTO
    obtain ⟨x, -, hy⟩ := bind_eq_ok.1 h
    obtain ⟨y, -, ⟨⟩⟩ := bind_eq_ok.1 hy
    rfl
  case h_2 | h_4 | h_6 | h_8 | h_10 | h_12 | h_14 | h_16 | h_18 | h_20 | h_22 => cases h
  all_goals -- no operand
    cases buildPlain_eq_ok h
    rfl

theorem decodeZoneCode_wf (c : ZoneCode) : (decodeZoneCode c).wf = true := by revert c; decide

/-- The five other forms fix every operand by its width, but for the zone codes, of which only the reserved ones stay codes. -/
theorem decode_wf {x : Encoded} {i : Instr} (h : decode x = .ok i) : i.wf = true := by
  cases x with
  | busWord w => 
    rw [decode, decodeBusWord] at h
    split_ifs at h; cases h; rfl
  | bytePair w => 
    rw [decode, decodeBytePair] at h
    split_ifs at h; cases h; rfl
  | cmdByte v => 
    rw [decode, decodeCmdByte] at h
    split_ifs at h <;> cases h <;> rfl
  | dataByte c => cases h; rfl
  | zoneCode c => cases h; exact decodeZoneCode_wf c
  | operation line =>
    obtain ⟨m, ops, hops, hbuild⟩ := decodeLine_eq_ok h
    exact buildInstr_wf hops hbuild

/-- The mark of R50 on a PUTCMD is that no form of R44 fits its byte. -/
theorem putCmd_outsideProgram_iff {v : Byte} : (Instr.putCmd v).outsideProgram = true ↔ ∀ j, decodeCmdByte v ≠ .ok j := by
  rw [Instr.outsideProgram]
  split <;> simp_all

/-- Settles O49: form by form, and for the mark row by row. -/
theorem decodedInstructionsAreWellFormed : Obligations.DecodedInstructionsAreWellFormed := by
  refine ⟨fun x i => decode_wf, fun i => ⟨fun h => ?_, ?_⟩⟩
  · cases i with
    | putCmd v => exact ⟨v, rfl, putCmd_outsideProgram_iff.1 h⟩
    | _ => cases h
  · rintro ⟨v, rfl, hnone⟩
    exact putCmd_outsideProgram_iff.2 hnone

/-! ## Words written out -/

/-- Settles O47: the words are encodings, which are read back, and one with RW = 1. -/
theorem wordsDecodeToTheirInstructions : Obligations.WordsDecodeToTheirInstructions :=
  ⟨decodeBusWord_busWordBits .command 2, rfl, decodeBytePair_bytePairBits .data 0x41, decodeCmdByte_cmdFunctionSetByte 0 1 0,
    decodeCmdByte_cmdSetDdramByte 0x45, rfl, congrArg Except.ok (decodeZoneCode_of_reserved (c := 0b111) (by decide))⟩

end Sys2Proof

namespace Sys2Proof.Machine

/-! ## The bit-level rows and the command bytes as instructions -/

/-- Every one-bit line admits at most the levels 0 and 1 (R8). -/
theorem not_levelAdmitted_of_wide {l : Line} {v : Nibble} (hl : l ≠ .db) (hv : 1 < v.toNat) : ¬ levelAdmitted l v = true := by
  cases l with
  | db => exact absurd rfl hl
  | rs | rw | e | relay => revert v; decide

theorem buildDrive_of_not_levelAdmitted {l : Line} {v : Nibble} (h : ¬ levelAdmitted l v = true) :
    buildDrive l v.toNat = .error (if l = .rw ∧ v = 1 then .readTransfer else .badLevel) := by
  have hone : v.toNat = 1 ↔ v = 1 := ⟨fun h => BitVec.eq_of_toNat_eq h, fun h => h ▸ rfl⟩
  have hnot : ¬ (v.toNat < 16 ∧ levelAdmitted l (BitVec.ofNat 4 v.toNat) = true) := by simp [h]
  rw [buildDrive, if_neg hnot]
  simp only [hone]
  split_ifs <;> rfl

/-- Settles O8: RW = 1, the wide levels, and what the decoder makes of a level other than 0 for RW. -/
theorem driveRefusesWhatItsLineDoesNotAdmit : Obligations.DriveRefusesWhatItsLineDoesNotAdmit := by
  refine ⟨fun s => rfl, fun s l v hl hv => ?_, fun v hv => ?_⟩
  · have hone : ¬ (l = .rw ∧ v = 1) := by rintro ⟨-, rfl⟩; exact absurd hv (by decide)
    rw [exec_drive, execDrive, if_neg (not_levelAdmitted_of_wide hl hv), if_neg hone]
  · rw [decode_drive, buildDrive_of_not_levelAdmitted (by simpa [levelAdmitted] using hv)]
    simp

/-- One nibble, whatever the state: its events, its levels, its time and what it leaves alone (R51). -/
theorem runActions_sendNibble (rs : RegSel) (n : Nibble) (s : State) :
    ∃ t, runActions (sendNibbleActions s.cfg rs n) s = .next t ∧ t.rs = rsBit rs ∧ t.rw = 0 ∧ t.db = n ∧ t.e = 0 ∧
      appends s t (nibbleSignals s.cfg rs n) ∧ takes s t (nibbleTime s.cfg) ∧ SameBeyondDisplay s t ∧ sameCursor s t := by
  obtain ⟨t, ht⟩ := runActions_total (sendNibble_total s.cfg rs n) s
  obtain ⟨hrs, hrw, hdb, he⟩ := sendNibble_bus ht
  obtain ⟨hevents, htime, hsame⟩ := runActions_display (sendNibble_total _ _ _) (sendNibble_displayOnly _ _ _) ht
  rw [sendNibble_signals] at hevents
  rw [sendNibble_waits] at htime
  exact ⟨t, ht, hrs, hrw, hdb, he, hevents, htime, hsame, runActions_cur (sendNibble_noCur _ _ _) ht⟩

/-- One byte, whatever the state: its events, its levels, its time and what it leaves alone (R53). -/
theorem runActions_sendByte (rs : RegSel) (v : Byte) (s : State) :
    ∃ t, runActions (sendByteActions s.cfg rs v) s = .next t ∧ appends s t (byteSignals s.cfg rs v) ∧ busAfterByte rs v t ∧
      takes s t (byteTime s.cfg) ∧ SameBeyondDisplay s t ∧ sameCursor s t := by
  obtain ⟨t, ht⟩ := runActions_total (sendByte_total s.cfg rs v) s
  obtain ⟨hevents, htime, hsame⟩ := runActions_display (sendByte_total _ _ _) (sendByte_displayOnly _ _ _) ht
  rw [sendByte_signals] at hevents
  rw [sendByte_waits] at htime
  exact ⟨t, ht, hevents, sendByte_bus ht, htime, hsame, runActions_cur (sendByte_noCur _ _ _) ht⟩

/-- Settles O14: BUSWORD performs one nibble. -/
theorem busWordIsCarriedByOnePulse : Obligations.BusWordIsCarriedByOnePulse := by
  intro rs n s
  obtain ⟨t, ht, hrs, hrw, hdb, he, hrest⟩ := runActions_sendNibble rs n s
  exact ⟨t, ht, by rw [State.busWord, hrs, hrw, hdb], he, hrest⟩

/-- Settles O17: both rows perform one byte. -/
theorem bytePairIsSentAsAByte : Obligations.BytePairIsSentAsAByte :=
  fun rs v s => ⟨rfl, runActions_sendByte rs v s⟩

/-- Settles O20: each row performs one byte, that of its pattern. -/
theorem commandFormsSendTheirPattern : Obligations.CommandFormsSendTheirPattern := by
  intro x i sh d c b l n f a ch s p hp
  simp only [List.mem_cons, List.not_mem_nil, or_false] at hp
  rcases hp with rfl | rfl | rfl | rfl | rfl | rfl | rfl
  · exact runActions_sendByte .command 0b00000001 s
  · exact runActions_sendByte .command (cmdResetByte x) s
  · exact runActions_sendByte .command (cmdEntryModeByte i sh) s
  · exact runActions_sendByte .command (cmdDisplayCtrlByte d c b) s
  · exact runActions_sendByte .command (cmdFunctionSetByte l n f) s
  · exact runActions_sendByte .command (cmdSetDdramByte a) s
  · exact runActions_sendByte .data ch s

/-- Settles O23: the 32 cells one by one. -/
theorem setAddressByteOfEachCell : Obligations.SetAddressByteOfEachCell := by
  have hcells : ∀ c < 16, ∀ l < 2, (setAddressByte Config.default c l).toNat = 0x80 + 0x40 * l + c := by decide
  exact fun c l hc hl => hcells c hc l hl

/-! ## Zone codes -/

/-- A zone's code as an instruction leaves the code in `ZONE` and enters the handler's first position (R47, R69). -/
theorem dispatch_zoneCode (z : Zone) (s : State) :
    ∃ t, dispatch (s.setZone (zoneCode z)) = .next t ∧ t.seq = .handle z 0 ∧ t.zone = some (zoneCode z) ∧ t.trace = s.trace ∧
      takes s t 0 ∧ SameSurroundings s t ∧ sameBus s t ∧ sameCursor s t ∧ t.relay = s.relay ∧ t.et = s.et ∧ t.tick = s.tick ∧
      t.sample = s.sample ∧ t.phaseEt = s.phaseEt :=
  ⟨_, dispatch_of_zone rfl, rfl, rfl, rfl, passTime_takes s _ rfl rfl, ⟨rfl, rfl, rfl, rfl⟩, ⟨rfl, rfl, rfl, rfl⟩, ⟨rfl, rfl⟩,
    rfl, rfl, rfl, rfl, rfl⟩

/-- Settles O31: the five zones. -/
theorem zoneCodesEnterTheirHandler : Obligations.ZoneCodesEnterTheirHandler := by
  intro s p hp
  simp only [List.mem_cons, List.not_mem_nil, or_false] at hp
  rcases hp with rfl | rfl | rfl | rfl | rfl
  · exact dispatch_zoneCode .idle s
  · exact dispatch_zoneCode .increment s
  · exact dispatch_zoneCode .decrement s
  · exact dispatch_zoneCode .reset s
  · exact dispatch_zoneCode .expose s

theorem dispatch_of_reserved {c : ZoneCode} {s : State} (hc : 4 < c.toNat) (hz : s.zone = some c) :
    dispatch s = .fault (.reservedZone c) := by
  simp [dispatch, hz, zoneOfCode_of_reserved hc]

theorem programStep_past {s : State} {as : List Action} (hlist : s.phaseList = .ok as) (h : as.length ≤ s.seq.index) :
    programStep s = leavePhase s := by
  simp [programStep, hlist, List.getElem?_eq_none h]

/-- Settles O32: as an instruction, at the dispatch, and past the end of POLL's list, which dispatches. -/
theorem reservedZoneCodesFault : Obligations.ReservedZoneCodesFault := by
  refine ⟨fun c s => exec_zoneReserved s c, fun c s hc hz => dispatch_of_reserved hc hz,
    fun c s hc hcfg hreset hscript hseq hsample hz => ?_⟩
  have hpast : (pollActions s.sample).length ≤ s.seq.index := by rw [hseq, pollActions_within hsample]; rfl
  rw [step_eq_programStep hcfg hreset hscript, programStep_past (phaseList_poll hseq) hpast, leavePhase, hseq]
  exact dispatch_of_reserved hc hz

/-! ## The script's next operation -/

theorem step_eq_scriptStep {s : State} {op : Encoded} {rest : List Encoded} (hcfg : configOk s.cfg = true)
    (hreset : s.env.reset = none) (hscript : s.script = op :: rest) : step s = scriptStep op rest s := by
  simp [step, hcfg, hreset, hscript]

/-- Settles O50: the script's step, where its operation decodes and where it does not. -/
theorem stepRunsTheScriptsNextOperation : Obligations.StepRunsTheScriptsNextOperation := by
  intro s op rest hcfg hreset hscript
  rw [step_eq_scriptStep hcfg hreset hscript, scriptStep]
  exact ⟨fun i hi => by rw [hi], fun err herr => by rw [herr]⟩

/-! ## The bus words of a trace -/

/-- The bus words that a trace of events with these signals has the display take (`busWords_eq_signalWords`). -/
def signalWords (sigs : List Signal) : List (BitVec 6) := busWords (sigs.map Signal.event)

/-- The times of the events do not matter. -/
theorem wordsTaken_event_signal (s : State) (ws : List (BitVec 6)) (evs : List Event) :
    wordsTaken s ws (evs.map fun ev => ev.signal.event) = wordsTaken s ws evs := by
  induction evs generalizing s ws with
  | nil => rfl
  | cons ev evs ih => cases ev <;> exact ih _ _

theorem busWords_eq_signalWords (trace : List Event) : busWords trace = signalWords (trace.map Event.signal) := by
  rw [signalWords, List.map_map]
  exact (wordsTaken_event_signal State.reset [] trace).symm

/-- The words taken so far stay, and what comes after does not change them. -/
theorem wordsTaken_append (s : State) (ws : List (BitVec 6)) (evs : List Event) :
    ∃ t, ∀ rest, wordsTaken s ws (evs ++ rest) = wordsTaken t (wordsTaken s ws evs).reverse rest := by
  induction evs generalizing s ws with
  | nil => exact ⟨s, fun rest => by simp [wordsTaken]⟩
  | cons ev evs ih => cases ev <;> exact ih _ _

theorem reverse_prefix_wordsTaken (s : State) (ws : List (BitVec 6)) (evs : List Event) :
    ws.reverse <+: wordsTaken s ws evs := by
  induction evs generalizing s ws with
  | nil => exact List.prefix_rfl
  | cons ev evs ih =>
    cases ev with
    | set l v t =>
      rw [wordsTaken]
      split
      · exact (List.prefix_append ws.reverse _).trans (by simpa using ih _ (_ :: ws))
      · exact ih _ _
    | _ => exact ih _ _

theorem signalWords_prefix (xs ys : List Signal) : signalWords xs <+: signalWords (xs ++ ys) := by
  obtain ⟨t, ht⟩ := wordsTaken_append State.reset [] (xs.map Signal.event)
  rw [signalWords, signalWords, busWords, busWords, List.map_append, ht]
  simpa using reverse_prefix_wordsTaken t (wordsTaken State.reset [] (xs.map Signal.event)).reverse (ys.map Signal.event)

/-- Whatever the lines are and whatever was taken before, the display takes these words from these signals. -/
def Sends (sigs : List Signal) (words : List (BitVec 6)) : Prop :=
  ∀ s ws, ∃ t, ∀ rest, wordsTaken s ws (sigs.map Signal.event ++ rest) = wordsTaken t (words.reverse ++ ws) rest

theorem Sends.nil : Sends [] [] := fun s _ => ⟨s, fun _ => rfl⟩

theorem Sends.append {xs ys : List Signal} {us vs : List (BitVec 6)} (h : Sends xs us) (k : Sends ys vs) :
    Sends (xs ++ ys) (us ++ vs) := by
  intro s ws
  obtain ⟨t, ht⟩ := h s ws
  obtain ⟨u, hu⟩ := k t (us.reverse ++ ws)
  exact ⟨u, fun rest => by simp [ht, hu]⟩

theorem Sends.signalWords_append {ys : List Signal} {vs : List (BitVec 6)} (h : Sends ys vs) (xs : List Signal) :
    signalWords (xs ++ ys) = signalWords xs ++ vs := by
  obtain ⟨t, ht⟩ := wordsTaken_append State.reset [] (xs.map Signal.event)
  obtain ⟨u, hu⟩ := h t (wordsTaken State.reset [] (xs.map Signal.event)).reverse
  have hrest := hu []
  rw [List.append_nil] at hrest
  rw [signalWords, busWords, List.map_append, ht, hrest]
  simp [wordsTaken, signalWords, busWords]

/-! ### What the drives of the lines have the display take -/

section
variable (s : State) (ws : List (BitVec 6)) (x : Nat) (evs : List Event)

/-- A drive of any line but `E` has the display take nothing. -/
theorem wordsTaken_set_of_ne_e {l : Line} (hl : l ≠ .e) (v : Nibble) :
    wordsTaken s ws (.set l v x :: evs) = wordsTaken (s.setLine l v) ws evs := by
  have he : (s.setLine l v).e = s.e := by cases l <;> first | rfl | exact absurd rfl hl
  have hfall : ¬ (s.e = 1 ∧ (s.setLine l v).e = 0) := by
    rw [he]
    rintro ⟨h1, h0⟩
    exact absurd (h1.symm.trans h0) (by decide)
  rw [wordsTaken, if_neg hfall]

theorem wordsTaken_rise : wordsTaken s ws (.set .e 1 x :: evs) = wordsTaken (s.setLine .e 1) ws evs := by
  have hlow : ¬ bitLevel 1 = 0 := by decide
  rw [wordsTaken, if_neg fun h => hlow h.2]

theorem wordsTaken_wait (d : Nat) : wordsTaken s ws (.wait d x :: evs) = wordsTaken s ws evs := rfl

theorem wordsTaken_fall (h : s.e = 1) :
    wordsTaken s ws (.set .e 0 x :: evs) = wordsTaken (s.setLine .e 0) (s.busWord :: ws) evs := by
  rw [wordsTaken, if_pos ⟨h, rfl⟩]
  rfl

end

/-- A signal from which the display takes nothing: it does not drive `E`. -/
def Signal.isSilent : Signal → Prop
  | .set l _ => l ≠ .e
  | .wait _ | .sample _ | .err _ => True

theorem Signal.isSilent.sends {x : Signal} (h : x.isSilent) : Sends [x] [] := by
  intro s ws
  cases x with
  | set l v => exact ⟨s.setLine l v, fun rest => wordsTaken_set_of_ne_e s ws 0 rest h v⟩
  | _ => exact ⟨s, fun _ => rfl⟩

theorem sends_of_silent {sigs : List Signal} (h : ∀ x ∈ sigs, x.isSilent) : Sends sigs [] := by
  induction sigs with
  | nil => exact .nil
  | cons x sigs ih =>
    obtain ⟨hx, hsigs⟩ := List.forall_mem_cons.1 h
    exact hx.sends.append (ih hsigs)

/-- The state whose lines are those of a nibble at its fall of `E` (R51). -/
def State.atPulse (rs : RegSel) (n : Nibble) (s : State) : State :=
  (((s.setLine .rs (levelOfBit (rsBit rs))).setLine .rw 0).setLine .db n).setLine .e 1

theorem State.busWord_atPulse (rs : RegSel) (n : Nibble) (s : State) : (s.atPulse rs n).busWord = busWordBits rs n := by
  cases rs <;> rfl

/-- One enable pulse gives the display its word, whatever the lines were (R32, R42, R51). -/
theorem sends_nibble (cfg : Config) (rs : RegSel) (n : Nibble) : Sends (nibbleSignals cfg rs n) [busWordBits rs n] := by
  intro s ws
  refine ⟨(s.atPulse rs n).setLine .e 0, fun rest => ?_⟩
  have hpulse : wordsTaken s ws ((nibbleSignals cfg rs n).map Signal.event ++ rest)
      = wordsTaken (s.atPulse rs n) ws (.set .e 0 0 :: .wait cfg.tH 0 :: rest) := by
    simp only [nibbleSignals, List.map_cons, List.cons_append, Signal.event]
    rw [wordsTaken_set_of_ne_e _ _ _ _ (by decide), wordsTaken_set_of_ne_e _ _ _ _ (by decide),
      wordsTaken_set_of_ne_e _ _ _ _ (by decide), wordsTaken_wait, wordsTaken_rise, wordsTaken_wait]
    rfl
  rw [hpulse, wordsTaken_fall _ _ _ _ rfl, State.busWord_atPulse, wordsTaken_wait]
  rfl

/-- The bus words of a byte with its register-select, the high nibble's first (R43). -/
def byteWords (b : RegSel × Byte) : List (BitVec 6) := [busWordBits b.1 (highNibble b.2), busWordBits b.1 (lowNibble b.2)]

theorem sends_byte (cfg : Config) (rs : RegSel) (v : Byte) : Sends (byteSignals cfg rs v) (byteWords (rs, v)) := by
  have hsettle : Sends [.wait cfg.tSettle] [] := Signal.isSilent.sends (x := .wait cfg.tSettle) trivial
  exact hsettle.append ((sends_nibble cfg rs _).append (sends_nibble cfg rs _))

/-! ## The bytes of the block's own lists of actions -/

/-- The command bytes of the block's own program with the default parameters (R44, R81). -/
def ownCommands : List Byte := [0x02, 0x28, 0x0C, 0x06, 0x01, 0x80, 0xC0]

/-- The characters of the block's own texts (R46). -/
def ownCharacters : List Byte := codes " 0123456789AEGILMNRSTVaceloprstux".toList

/-- A byte that the block's own program sends. -/
def isOwnByte (b : RegSel × Byte) : Prop :=
  match b.1 with
  | .command => b.2 ∈ ownCommands
  | .data    => b.2 ∈ ownCharacters

/-- Bus words that are whole bytes of the block's own program. -/
def wholeOwnBytes (words : List (BitVec 6)) : Prop :=
  ∃ bs : List (RegSel × Byte), (∀ b ∈ bs, isOwnByte b) ∧ words = bs.flatMap byteWords

/-- The display takes whole bytes of the block's own program from these actions, whatever was before. -/
def sendsOwnBytes (as : List Action) : Prop := ∃ words, Sends (as.flatMap Action.signals) words ∧ wholeOwnBytes words

/-- An action from which the display takes nothing. -/
def Action.isSilent (a : Action) : Prop := ∀ v, a ≠ .drive .e v

theorem Action.isSilent.signals {a : Action} (h : a.isSilent) : ∀ x ∈ a.signals, x.isSilent := by
  cases a with
  | drive l v => simpa [Action.signals, Signal.isSilent] using fun hl => h v (by rw [hl])
  | _ => simp [Action.signals, Signal.isSilent]

theorem sends_of_isSilent {as : List Action} (h : ∀ a ∈ as, a.isSilent) : Sends (as.flatMap Action.signals) [] := by
  refine sends_of_silent fun x hx => ?_
  obtain ⟨a, ha, hxa⟩ := List.mem_flatMap.1 hx
  exact (h a ha).signals x hxa

theorem wholeOwnBytes_nil : wholeOwnBytes [] := ⟨[], by simp, rfl⟩

theorem wholeOwnBytes.append {us vs : List (BitVec 6)} (h : wholeOwnBytes us) (k : wholeOwnBytes vs) :
    wholeOwnBytes (us ++ vs) := by
  obtain ⟨bs, hbs, rfl⟩ := h
  obtain ⟨cs, hcs, rfl⟩ := k
  exact ⟨bs ++ cs, List.forall_mem_append.2 ⟨hbs, hcs⟩, List.flatMap_append.symm⟩

theorem sendsOwnBytes.append {as bs : List Action} (h : sendsOwnBytes as) (k : sendsOwnBytes bs) : sendsOwnBytes (as ++ bs) := by
  obtain ⟨us, hus, hown⟩ := h
  obtain ⟨vs, hvs, hown'⟩ := k
  exact ⟨us ++ vs, by rw [List.flatMap_append]; exact hus.append hvs, hown.append hown'⟩

theorem sendsOwnBytes_of_isSilent {as : List Action} (h : ∀ a ∈ as, a.isSilent) : sendsOwnBytes as :=
  ⟨[], sends_of_isSilent h, wholeOwnBytes_nil⟩

theorem sendsOwnBytes_byte (cfg : Config) {rs : RegSel} {v : Byte} (h : isOwnByte (rs, v)) :
    sendsOwnBytes (sendByteActions cfg rs v) :=
  ⟨byteWords (rs, v), by rw [sendByte_signals]; exact sends_byte cfg rs v, [(rs, v)], by simpa using h, by simp⟩

theorem sendsOwnBytes_command (cfg : Config) {v : Byte} (h : v ∈ ownCommands) : sendsOwnBytes (putCommandActions cfg v) :=
  sendsOwnBytes_byte cfg h

theorem sendsOwnBytes_text (cfg : Config) {str : List Byte} (h : ∀ c ∈ str, c ∈ ownCharacters) :
    sendsOwnBytes (putStringActions cfg str) := by
  induction str with
  | nil => exact sendsOwnBytes_of_isSilent (by simp [putStringActions])
  | cons c cs ih =>
    obtain ⟨hc, hcs⟩ := List.forall_mem_cons.1 h
    exact (sendsOwnBytes_byte (rs := .data) cfg hc).append (ih hcs)

/-! ### The procedures, with the default parameters -/

theorem setAddressByte_mem_ownCommands {l : Nat} (hl : l ≤ 1) : setAddressByte Config.default 0 l ∈ ownCommands := by
  interval_cases l <;> decide

theorem sendsOwnBytes_goto {l : Nat} (hl : l ≤ 1) : sendsOwnBytes (gotoActions Config.default 0 l) := by
  unfold gotoActions
  split
  · exact (sendsOwnBytes_command _ (setAddressByte_mem_ownCommands hl)).append
      (sendsOwnBytes_of_isSilent (by simp [Action.isSilent]))
  · exact sendsOwnBytes_of_isSilent (by simp [Action.isSilent])

theorem sendsOwnBytes_writeAt {l : Nat} (hl : l ≤ 1) {str : List Byte} (h : ∀ c ∈ str, c ∈ ownCharacters) :
    sendsOwnBytes (writeAtActions Config.default 0 l str) := (sendsOwnBytes_goto hl).append (sendsOwnBytes_text _ h)

theorem sendsOwnBytes_render {l : Nat} (hl : l ≤ 1) {str : List Byte} (h : ∀ c ∈ str, c ∈ ownCharacters) :
    sendsOwnBytes (renderActions Config.default l str) := by
  have hspace : code ' ' ∈ ownCharacters := by decide
  refine sendsOwnBytes_writeAt hl (List.forall_mem_append.2 ⟨h, fun c hc => ?_⟩)
  rwa [List.eq_of_mem_replicate hc]

theorem digitChar_mem_ownCharacters {n : Nat} (h : n < 10) : digitChar n ∈ ownCharacters := by
  interval_cases n <;> decide

/-- The decimal text of a number has digits only (R61). -/
theorem decText_mem_ownCharacters {v : Nat} {ds : List Byte} (h : decText v = some ds) : ∀ c ∈ ds, c ∈ ownCharacters := by
  unfold decText at h
  split_ifs at h with hmax hone <;> cases h
  · simpa using digitChar_mem_ownCharacters hone
  · simpa using ⟨digitChar_mem_ownCharacters (n := v / 10) (by omega), digitChar_mem_ownCharacters (n := v % 10) (by omega)⟩

theorem sendsOwnBytes_renderSeconds {l v : Nat} (hl : l ≤ 1) {tail : List Byte} (htail : ∀ c ∈ tail, c ∈ ownCharacters)
    {as : List Action} (h : renderSeconds Config.default l v tail = .ok as) : sendsOwnBytes as := by
  unfold renderSeconds secondsText at h
  cases hds : decText v with rw [hds] at h
  | none => cases h
  | some ds =>
    cases h
    exact sendsOwnBytes_render hl (List.forall_mem_append.2 ⟨decText_mem_ownCharacters hds, htail⟩)

theorem textSecExposure_mem : ∀ c ∈ textSecExposure, c ∈ ownCharacters := by decide
theorem textSecLastExp_mem : ∀ c ∈ textSecLastExp, c ∈ ownCharacters := by decide

theorem sendsOwnBytes_banner : sendsOwnBytes (bannerActions Config.default) :=
  ((sendsOwnBytes_writeAt (l := 0) (by decide) (by decide)).append (sendsOwnBytes_writeAt (l := 1) (by decide) (by decide))).append
    (sendsOwnBytes_of_isSilent (by simp [Action.isSilent]))

theorem sendsOwnBytes_boot : sendsOwnBytes (bootActions Config.default) := by
  have command {v : Byte} (hv : v ∈ ownCommands) := sendsOwnBytes_command Config.default hv
  have hpowerup : sendsOwnBytes [.wait Config.default.tPowerup] := sendsOwnBytes_of_isSilent (by simp [Action.isSilent])
  have hclear : sendsOwnBytes (putCommandActions Config.default Config.default.cmdClear) := command (by decide)
  have hinit : sendsOwnBytes (initActions Config.default) :=
    hpowerup.append ((((((command (by decide)).append (command (by decide))).append (command (by decide))).append
      (command (by decide))).append hclear).append (sendsOwnBytes_goto (by decide)))
  exact (hinit.append sendsOwnBytes_banner).append hclear

theorem sendsOwnBytes_reset : sendsOwnBytes (resetActions Config.default) := by
  have hclear : sendsOwnBytes (putCommandActions Config.default Config.default.cmdClear) := sendsOwnBytes_command _ (by decide)
  exact (((hclear.append (sendsOwnBytes_writeAt (l := 0) (by decide) (by decide))).append
    (sendsOwnBytes_of_isSilent (by simp [Action.isSilent]))).append sendsOwnBytes_banner).append hclear

/-- The shape both adjusting handlers have: a part that is silent, the value of `ET` shown, a part that is silent. -/
theorem sendsOwnBytes_adjust {v : Nat} {bs cs as : List Action} (hbs : ∀ a ∈ bs, a.isSilent) (hcs : ∀ a ∈ cs, a.isSilent)
    (h : Expansion.append (.ok bs) (Expansion.append (renderSeconds Config.default 0 v textSecExposure) (.ok cs)) = .ok as) :
    sendsOwnBytes as := by
  simp only [Expansion.append_eq_ok] at h
  obtain ⟨_, _, ⟨⟩, ⟨_, _, hrender, ⟨⟩, rfl⟩, rfl⟩ := h
  exact (sendsOwnBytes_of_isSilent hbs).append ((sendsOwnBytes_renderSeconds (by decide) textSecExposure_mem hrender).append
    (sendsOwnBytes_of_isSilent hcs))

theorem sendsOwnBytes_countdown {n : Nat} {as : List Action} (h : countdownActions Config.default n = .ok as) :
    sendsOwnBytes as := by
  induction n generalizing as with
  | zero => cases h; exact sendsOwnBytes_of_isSilent (by simp)
  | succ n ih =>
    simp only [countdownActions, tickActions, Expansion.append_eq_ok] at h
    obtain ⟨bs, _, hbs, ⟨_, _, ⟨⟩, hrender, rfl⟩, rfl⟩ := h
    exact (ih hbs).append ((sendsOwnBytes_of_isSilent (by simp [Action.isSilent])).append
      (sendsOwnBytes_renderSeconds (by decide) textSecLastExp_mem hrender))

theorem sendsOwnBytes_expose {et : Seconds} {as : List Action} (h : exposeActions Config.default et = .ok as) :
    sendsOwnBytes as := by
  simp only [exposeActions, Expansion.append_eq_ok] at h
  obtain ⟨_, _, hrender, ⟨_, _, ⟨⟩, ⟨_, _, ⟨⟩, ⟨mid, _, hmid, ⟨⟩, rfl⟩, rfl⟩, rfl⟩, rfl⟩ := h
  exact (sendsOwnBytes_renderSeconds (by decide) textSecExposure_mem hrender).append
    ((sendsOwnBytes_render (by decide) (by simp)).append ((sendsOwnBytes_of_isSilent (by simp [Action.isSilent])).append
      ((sendsOwnBytes_countdown hmid).append (sendsOwnBytes_of_isSilent (by simp [Action.isSilent])))))

theorem pollActions_isSilent (x : Option Nat) : ∀ a ∈ pollActions x, a.isSilent :=
  fun a ha v => pollActions_not_driven x a ha .e v

/-- Every phase sends whole bytes of the block's own program (R44, R46, R81). -/
theorem phaseActions_sendsOwnBytes {q : Seq} {et : Seconds} {x : Option Nat} {as : List Action}
    (h : phaseActions Config.default q et x = .ok as) : sendsOwnBytes as := by
  cases q with
  | boot k => cases h; exact sendsOwnBytes_boot
  | poll k => cases h; exact sendsOwnBytes_of_isSilent (pollActions_isSilent x)
  | handle z k =>
    cases z with
    | idle => cases h; exact sendsOwnBytes_of_isSilent (by simp [idleActions, Action.isSilent])
    | increment | decrement => exact sendsOwnBytes_adjust (by split <;> simp [Action.isSilent]) (by simp [Action.isSilent]) h
    | reset => cases h; exact sendsOwnBytes_reset
    | expose => exact sendsOwnBytes_expose h

/-! ## One step of the block's own program -/

theorem leavePhase_next {s t : State} (h : leavePhase s = .next t) :
    SameSurroundings s t ∧ t.trace = s.trace ∧ t.seq.index = 0 := by
  unfold leavePhase at h
  split at h
  · cases h; exact ⟨⟨rfl, rfl, rfl, rfl⟩, rfl, rfl⟩
  · cases h; exact ⟨⟨rfl, rfl, rfl, rfl⟩, rfl, rfl⟩
  · obtain ⟨c, z, -, -, rfl⟩ := dispatch_next_iff.1 h
    exact ⟨⟨rfl, rfl, rfl, rfl⟩, rfl, rfl⟩

theorem advance_next_cases {k : Nat} {u t : State} (h : advance k u = .next t) :
    ∃ bs, u.runningList = .ok bs ∧ ((k + 1 < bs.length ∧ t = u.setSeq (u.seq.atIndex (k + 1))) ∨
      (bs.length ≤ k + 1 ∧ leavePhase u = .next t)) := by
  unfold advance at h
  split at h
  next bs hbs =>
    refine ⟨bs, hbs, ?_⟩
    split at h
    next hk => cases h; exact .inl ⟨hk, rfl⟩
    next hk => exact .inr ⟨Nat.not_lt.1 hk, h⟩
  · cases h

/-- WHAT A STEP OF THE BLOCK'S OWN PROGRAM CAN DO: the action at its index and the position's advance, or, past the end of the
list, the phase is left. -/
theorem programStep_next_cases {s t : State} (h : programStep s = .next t) :
    ∃ as, s.phaseList = .ok as ∧
      ((∃ a u, as[s.seq.index]? = some a ∧ perform a s.atPhaseStart = .next u ∧ advance s.seq.index u = .next t) ∨
        (as.length ≤ s.seq.index ∧ leavePhase s = .next t)) := by
  unfold programStep at h
  split at h
  · cases h
  next as has =>
    refine ⟨as, has, ?_⟩
    split at h
    next a ha =>
      obtain ⟨u, hu, ht⟩ := andThen_eq_next.1 h
      exact .inl ⟨a, u, ha, hu, ht⟩
    next ha => exact .inr ⟨List.getElem?_eq_none_iff.1 ha, h⟩

theorem programStep_surroundings {s t : State} (h : programStep s = .next t) : SameSurroundings s t := by
  have hstart : SameSurroundings s s.atPhaseStart := ⟨by simp, by simp, by simp, by simp⟩
  obtain ⟨as, -, ⟨a, u, -, hu, ht⟩ | ⟨-, ht⟩⟩ := programStep_next_cases h
  · have hsu := hstart.trans (perform_frame hu).1
    obtain ⟨bs, -, ⟨-, rfl⟩ | ⟨-, hleave⟩⟩ := advance_next_cases ht
    · exact hsu.trans ⟨rfl, rfl, rfl, rfl⟩
    · exact hsu.trans (leavePhase_next hleave).1
  · exact (leavePhase_next ht).1

/-! ## What the display takes along a run -/

/-- The signals of the trace. -/
def State.signals (s : State) : List Signal := s.trace.map Event.signal

/-- The actions that are left of the phase `SEQ` is in; none where it has no list. -/
def State.restOfPhase (s : State) : List Action :=
  match s.phaseList with
  | .ok as   => as.drop s.seq.index
  | .error _ => []

theorem State.restOfPhase_of_list {s : State} {as : List Action} (h : s.phaseList = .ok as) :
    s.restOfPhase = as.drop s.seq.index := by
  rw [restOfPhase, h]

/-- What the block sends, said of every state of a run with the default parameters: the bus words that the display has taken by the
end of the phase are whole bytes of the program. -/
structure SendsOwnBytes (s : State) : Prop where
  config   : s.cfg = Config.default
  noScript : s.script = []
  whole    : wholeOwnBytes (signalWords (s.signals ++ s.restOfPhase.flatMap Action.signals))

theorem signalWords_append_silent (xs : List Signal) {as : List Action} (h : ∀ a ∈ as, a.isSilent) :
    signalWords (xs ++ as.flatMap Action.signals) = signalWords xs := by
  rw [(sends_of_isSilent h).signalWords_append, List.append_nil]

/-- At the start of a phase nothing is half sent, and the whole phase sends whole bytes. -/
theorem SendsOwnBytes.of_start {s : State} (hcfg : s.cfg = Config.default) (hscript : s.script = []) (hindex : s.seq.index = 0)
    (h : wholeOwnBytes (signalWords s.signals)) : SendsOwnBytes s := by
  refine ⟨hcfg, hscript, ?_⟩
  cases hlist : s.phaseList with
  | error x => simpa [State.restOfPhase, hlist] using h
  | ok as =>
    have hphase := s.phaseList_eq.symm.trans hlist
    rw [hcfg] at hphase
    obtain ⟨words, hsends, hown⟩ := phaseActions_sendsOwnBytes hphase
    rw [State.restOfPhase_of_list hlist, hindex, List.drop_zero, hsends.signalWords_append]
    exact h.append hown

theorem State.signals_atPhaseStart (s : State) : s.atPhaseStart.signals = s.signals := s.atPhaseStart_field State.signals rfl

/-- The display takes nothing from an action that does not drive `E`, a sample's included. -/
theorem perform_signalWords {a : Action} {s u : State} (ha : a.isSilent) (h : perform a s = .next u) :
    signalWords u.signals = signalWords s.signals := by
  obtain ⟨sigs, hsigs, hsilent⟩ : ∃ sigs, u.signals = s.signals ++ sigs ∧ ∀ x ∈ sigs, x.isSilent := by
    by_cases hsample : a = .sample
    · subst hsample
      obtain ⟨v, -, htrace⟩ := perform_sample_trace h
      exact ⟨[.sample v], by simp [State.signals, htrace, Event.signal], by simp [Signal.isSilent]⟩
    · exact ⟨a.signals, (perform_appends h hsample).1, ha.signals⟩
  rw [hsigs, (sends_of_silent hsilent).signalWords_append, List.append_nil]

/-- An action of a phase is performed: what the display has taken by the end of the phase stays the same. -/
theorem signalWords_of_perform {s u : State} {as bs : List Action} {a : Action} (hlist : s.phaseList = .ok as)
    (ha : as[s.seq.index]? = some a) (hu : perform a s.atPhaseStart = .next u) (hbs : u.runningList = .ok bs) :
    signalWords (u.signals ++ (bs.drop (s.seq.index + 1)).flatMap Action.signals)
      = signalWords (s.signals ++ (as.drop s.seq.index).flatMap Action.signals) := by
  by_cases hq : ∃ k, s.seq = .poll k
  · obtain ⟨k, hk⟩ := hq
    have hseq : u.seq = .poll k := (perform_atPhaseStart_seq hu).trans hk
    cases (phaseList_poll hk).symm.trans hlist
    cases (runningList_poll hseq).symm.trans hbs
    have silent (x : Option Nat) (n : Nat) : ∀ a ∈ (pollActions x).drop n, a.isSilent :=
      fun a ha => pollActions_isSilent x a (List.mem_of_mem_drop ha)
    rw [signalWords_append_silent _ (silent _ _), signalWords_append_silent _ (silent _ _),
      perform_signalWords (pollActions_isSilent _ a (List.mem_of_getElem? ha)) hu, s.signals_atPhaseStart]
  · obtain ⟨hlt, rfl⟩ := List.getElem?_eq_some_iff.1 ha
    have hphase := s.phaseList_eq.symm.trans hlist
    have hne : as[s.seq.index] ≠ .sample := by
      intro he
      have htotal := phaseActions_total (not_exists.1 hq) hphase _ (List.getElem_mem hlt)
      rw [he] at htotal
      exact absurd htotal (by decide)
    have hsignals : u.signals = s.signals ++ as[s.seq.index].signals := by
      rw [← s.signals_atPhaseStart]
      exact (perform_appends hu hne).1
    have hrunning : s.phaseList = .ok bs := (runningList_of_perform (not_exists.1 hq) hu).symm.trans hbs
    cases hlist.symm.trans hrunning
    rw [hsignals, List.append_assoc, ← List.flatMap_cons, ← List.drop_eq_getElem_cons hlt]

theorem SendsOwnBytes.programStep {s t : State} (hs : SendsOwnBytes s) (h : programStep s = .next t) : SendsOwnBytes t := by
  have hsur := programStep_surroundings h
  have hcfg := hsur.cfg.trans hs.config
  have hscript := hsur.script.trans hs.noScript
  have hwhole := hs.whole
  have left {u : State} (hu : wholeOwnBytes (signalWords u.signals)) (hleave : leavePhase u = .next t) : SendsOwnBytes t := by
    obtain ⟨-, htrace, hindex⟩ := leavePhase_next hleave
    exact .of_start hcfg hscript hindex (by rwa [State.signals, htrace])
  obtain ⟨as, hlist, ⟨a, u, ha, hu, ht⟩ | ⟨hpast, hleave⟩⟩ := programStep_next_cases h
  · obtain ⟨bs, hbs, hcases⟩ := advance_next_cases ht
    rw [State.restOfPhase_of_list hlist, ← signalWords_of_perform hlist ha hu hbs] at hwhole
    rcases hcases with ⟨-, rfl⟩ | ⟨hend, hleave⟩
    · refine ⟨hcfg, hscript, ?_⟩
      rw [State.restOfPhase_of_list (as := bs) (by simpa using hbs)]
      simpa [State.signals] using hwhole
    · rw [List.drop_of_length_le hend] at hwhole
      exact left (by simpa using hwhole) hleave
  · rw [State.restOfPhase_of_list hlist, List.drop_of_length_le hpast] at hwhole
    exact left (by simpa using hwhole) hleave

/-- A reset may fall at any point of a step: what the step begun leaves of the configuration and of the script stays. -/
theorem abandoned_surroundings {p : ResetPoint} {s u : State} (hscript : s.script = []) (h : abandoned p s = .next u) :
    SameSurroundings s u := by
  simp only [abandoned, hscript] at h
  split at h
  · cases h; exact .refl s
  split at h
  · cases h; exact (beginAction_frame _ _ s).1
  · exact programStep_surroundings h

theorem SendsOwnBytes.step {s t : State} (hs : SendsOwnBytes s) (h : step s = .next t) : SendsOwnBytes t := by
  unfold Machine.step at h
  split at h
  · split at h
    next p _ =>
      obtain ⟨u, hu, ht⟩ := andThen_eq_next.1 h
      cases ht
      have hsur := abandoned_surroundings hs.noScript hu
      exact .of_start (hsur.cfg.trans hs.config) (hsur.script.trans hs.noScript) rfl wholeOwnBytes_nil
    · rw [hs.noScript] at h
      exact hs.programStep h
  · cases h

theorem SendsOwnBytes.runSteps {s t : State} {n : Nat} (hs : SendsOwnBytes s) (h : runSteps n s = .next t) : SendsOwnBytes t := by
  induction n generalizing s with
  | zero => cases h; exact hs
  | succ n ih =>
    obtain ⟨u, hu, ht⟩ := andThen_eq_next.1 h
    exact ih (hs.step hu) ht

/-- The bytes that the words of a trace pair up into, where the trace is the beginning of whole bytes (R43). -/
theorem mem_bytePairs_of_prefix {ws : List (BitVec 6)} {bs : List (RegSel × Byte)} (h : ws <+: bs.flatMap byteWords) :
    ∀ w ∈ bytePairs ws, ∃ b ∈ bs, w = bytePairBits b.1 b.2 := by
  induction bs generalizing ws with
  | nil => simp [List.prefix_nil.1 h, bytePairs]
  | cons b bs ih =>
    match ws with
    | [] | [_] => simp [bytePairs]
    | x :: y :: ws =>
      have hcons : x :: y :: ws <+: busWordBits b.1 (highNibble b.2) :: busWordBits b.1 (lowNibble b.2) :: bs.flatMap byteWords := h
      simp only [List.cons_prefix_cons] at hcons
      obtain ⟨rfl, rfl, hws⟩ := hcons
      rw [bytePairs, List.forall_mem_cons]
      exact ⟨⟨b, List.mem_cons_self, rfl⟩, fun w hw => (ih hws w hw).imp fun c hc => ⟨List.mem_cons_of_mem b hc.1, hc.2⟩⟩

/-- Settles O58: the words taken so far are a beginning of whole bytes. -/
theorem ownProgramSendsOnlyItsCommandsAndCharacters : Obligations.OwnProgramSendsOnlyItsCommandsAndCharacters := by
  intro env n t h w hw
  rw [core_run_eq_runSteps] at h
  have hreset : SendsOwnBytes (State.atReset Config.default env []) := .of_start rfl rfl rfl wholeOwnBytes_nil
  obtain ⟨bs, hown, hwords⟩ := (hreset.runSteps h).whole
  have hprefix := signalWords_prefix t.signals (t.restOfPhase.flatMap Action.signals)
  rw [hwords] at hprefix
  rw [busWords_eq_signalWords] at hw
  obtain ⟨⟨rs, v⟩, hb, rfl⟩ := mem_bytePairs_of_prefix hprefix w hw
  refine ⟨rs, v, decodeBytePair_bytePairBits rs v, ?_⟩
  have hv := hown _ hb
  cases rs with
  | command => exact hv
  | data => exact hv

end Sys2Proof.Machine
end

section
/-!
PROOFS of the obligations of spec/40_transport.md: one enable pulse per nibble with the times of its events (R51, R52), a byte as its
settle delay and two nibbles (R53), and the bus discipline along every run of the block's own program (R52, R54, R97 to R99).
-/

namespace Sys2Proof.Machine

/-! ## The times of a nibble's events -/

/-- When the eight events of one nibble take place (R51). -/
structure NibbleTimes where
  rs    : Nat
  rw    : Nat
  db    : Nat
  setup : Nat
  rise  : Nat
  pulse : Nat
  fall  : Nat
  hold  : Nat

/-- The events of one nibble at these times (`sendNibble_times`). -/
def NibbleTimes.events (x : NibbleTimes) (cfg : Config) (rs : RegSel) (n : Nibble) : List Event :=
  [.set .rs (levelOfBit (rsBit rs)) x.rs, .set .rw 0 x.rw, .set .db n x.db, .wait cfg.tSu x.setup,
    .set .e 1 x.rise, .wait cfg.tPw x.pulse, .set .e 0 x.fall, .wait cfg.tH x.hold]

/-- The times are in order from `start` to `stop`, and each wait lasts at least its length (R52). -/
structure NibbleTimes.Between (x : NibbleTimes) (cfg : Config) (start stop : Nat) : Prop where
  rs    : start ≤ x.rs
  rw    : x.rs ≤ x.rw
  db    : x.rw ≤ x.db
  setup : x.db ≤ x.setup
  rise  : x.setup + cfg.tSu ≤ x.rise
  pulse : x.rise ≤ x.pulse
  fall  : x.pulse + cfg.tPw ≤ x.fall
  hold  : x.fall ≤ x.hold
  stop  : x.hold + cfg.tH ≤ stop

section
variable {as : List Action} {s t : State}

theorem runActions_drive_cons {l : Line} {v : Nibble} (h : runActions (.drive l v :: as) s = .next t) :
    ∃ u, u.trace = s.trace ++ [.set l v s.time] ∧ s.time ≤ u.time ∧ runActions as u = .next t := by
  obtain ⟨u, hu, htrace, htime⟩ := drive_step l v s
  rw [runActions_cons, hu] at h
  exact ⟨u, htrace, htime, h⟩

theorem runActions_wait_cons {d : Nat} (h : runActions (.wait d :: as) s = .next t) :
    ∃ u, u.trace = s.trace ++ [.wait d s.time] ∧ s.time + d ≤ u.time ∧ runActions as u = .next t := by
  obtain ⟨u, hu, htrace, htime⟩ := wait_step d s
  rw [runActions_cons, hu] at h
  exact ⟨u, htrace, htime, h⟩

/-- A nibble appends its eight events, at times that are apart by its waits at least, in every timing (R51, R52). -/
theorem sendNibble_times {cfg : Config} {rs : RegSel} {n : Nibble} (h : runActions (sendNibbleActions cfg rs n) s = .next t) :
    ∃ x : NibbleTimes, t.trace = s.trace ++ x.events cfg rs n ∧ x.Between cfg s.time t.time := by
  obtain ⟨s1, e1, t1, h⟩ := runActions_drive_cons h
  obtain ⟨s2, e2, t2, h⟩ := runActions_drive_cons h
  obtain ⟨s3, e3, t3, h⟩ := runActions_drive_cons h
  obtain ⟨s4, e4, t4, h⟩ := runActions_wait_cons h
  obtain ⟨s5, e5, t5, h⟩ := runActions_drive_cons h
  obtain ⟨s6, e6, t6, h⟩ := runActions_wait_cons h
  obtain ⟨s7, e7, t7, h⟩ := runActions_drive_cons h
  obtain ⟨s8, e8, t8, ⟨⟩⟩ := runActions_wait_cons h
  refine ⟨⟨s.time, s1.time, s2.time, s3.time, s4.time, s5.time, s6.time, s7.time⟩, ?_, ⟨le_rfl, t1, t2, t3, t4, t5, t6, t7, t8⟩⟩
  simp [e8, e7, e6, e5, e4, e3, e2, e1, NibbleTimes.events]

end

/-- Where a nibble lasts exactly its waits, its events stand exactly at the times of R51's worked example. -/
theorem NibbleTimes.Between.events_exact {x : NibbleTimes} {cfg : Config} {start : Nat}
    (h : x.Between cfg start (start + nibbleTime cfg)) (rs : RegSel) (n : Nibble) :
    x.events cfg rs n =
      (NibbleTimes.mk start start start start (start + cfg.tSu) (start + cfg.tSu) (start + cfg.tSu + cfg.tPw)
        (start + cfg.tSu + cfg.tPw)).events cfg rs n := by
  obtain ⟨hrs, hrw, hdb, hsetup, hrise, hpulse, hfall, hhold, hstop⟩ := h
  unfold nibbleTime at hstop
  congr
  obtain ⟨rs, rw, db, setup, rise, pulse, fall, hold⟩ := x
  simp only [NibbleTimes.mk.injEq] at *
  omega

/-- Settles O13: one nibble, whose events no delay can move where it lasts exactly its waits. -/
theorem sendNibbleGivesOnePulse : Obligations.SendNibbleGivesOnePulse := by
  intro rs n s
  obtain ⟨t, ht, hrs, hrw, hdb, he, hevents, htime, hsame⟩ := runActions_sendNibble rs n s
  refine ⟨t, ht, hevents, hrs, hrw, hdb, he, by rw [State.busWord, hrs, hrw, hdb], htime, fun hdet => ?_, hsame⟩
  obtain ⟨x, htrace, hx⟩ := sendNibble_times ht
  rw [htime.2 hdet] at hx
  rw [htrace, hx.events_exact]
  rfl

/-! ## A byte -/

/-- Settles O15: the times of both nibbles, after the settle delay. -/
theorem nibbleTimingHasItsLowerBounds : Obligations.NibbleTimingHasItsLowerBounds := by
  intro rs v s t h
  obtain ⟨u, hsettle, hapart, h⟩ := runActions_wait_cons h
  rw [runActions_append] at h
  obtain ⟨w, hhigh, hlow⟩ := andThen_eq_next.1 h
  obtain ⟨x, hxtrace, hx⟩ := sendNibble_times hhigh
  obtain ⟨y, hytrace, hy⟩ := sendNibble_times hlow
  refine ⟨s.time, x.rs, x.rw, x.db, x.setup, x.rise, x.pulse, x.fall, x.hold,
    y.rs, y.rw, y.db, y.setup, y.rise, y.pulse, y.fall, y.hold, ?_, rfl, ?_⟩
  · rw [hytrace, hxtrace, hsettle, List.append_assoc, List.append_assoc]
    rfl
  · obtain ⟨_, _, _, _, _, _, _, _, _⟩ := hx
    obtain ⟨_, _, _, _, _, _, _, _, _⟩ := hy
    omega

/-- Settles O16: the byte's list of actions is that of the three operations, none of which writes the configuration. -/
theorem sendByteSendsHighThenLow : Obligations.SendByteSendsHighThenLow := by
  intro rs v s
  refine ⟨?_, runActions_sendByte rs v s⟩
  obtain ⟨u, hwait, -, -⟩ := wait_step s.cfg.tSettle s
  obtain ⟨w, hhigh⟩ := runActions_total (sendNibble_total s.cfg rs (highNibble v)) u
  have hucfg : u.cfg = s.cfg := (perform_frame hwait).1.cfg
  have hwcfg : w.cfg = s.cfg := (runActions_frame hhigh).1.cfg.trans hucfg
  have hwait' : exec (.wait s.cfg.tSettle) s = .next u := hwait
  have hhigh' : exec (.sendNib rs (highNibble v)) u = .next w := by rw [← hucfg] at hhigh; exact hhigh
  have hlow : exec (.sendNib rs (lowNibble v)) w = runActions (sendNibbleActions s.cfg rs (lowNibble v)) w := by
    rw [← hwcfg]; rfl
  calc exec (.sendByte rs v) s
      = runActions (sendByteActions s.cfg rs v) s := rfl
    _ = runActions (sendNibbleActions s.cfg rs (lowNibble v)) w := by
        rw [sendByteActions, runActions_cons, hwait, andThen_next, runActions_append, hhigh, andThen_next]
    _ = execAll [.wait s.cfg.tSettle, .sendNib rs (highNibble v), .sendNib rs (lowNibble v)] s := by
        simp only [execAll, hwait', hhigh', hlow, andThen_next, andThen_next_right]

/-! ## The monitor of the bus -/

/-- What the monitor has seen of a state's trace. -/
def State.monitor (s : State) : BusMonitor := s.trace.foldl (BusMonitor.see s.cfg) BusMonitor.start

/-- The monitor after an action performed at a time; only a drive shows on the bus (`perform_monitor`). -/
def Action.watched (cfg : Config) (now : Nat) (m : BusMonitor) : Action → BusMonitor
  | .drive l v => m.see cfg (.set l v now)
  | .wait _ | .sample | .note _ | .classify | .setEt _ | .setCur _ _ | .setTick _ => m

theorem perform_monitor {a : Action} {s t : State} (h : perform a s = .next t) :
    t.monitor = a.watched s.cfg s.time s.monitor := by
  have hcfg := (perform_frame h).1.cfg
  have one {ev : Event} (htrace : t.trace = s.trace ++ [ev]) : t.monitor = s.monitor.see s.cfg ev := by
    simp [State.monitor, htrace, hcfg]
  cases a with
  | drive l v =>
    obtain ⟨u, hu, htrace, -⟩ := drive_step l v s
    cases hu.symm.trans h
    exact one htrace
  | wait d => cases h; exact one (ev := .wait d s.time) rfl
  | note k => cases h; exact one (ev := .err k s.time) rfl
  | sample =>
    obtain ⟨v, -, htrace⟩ := perform_sample_trace h
    exact one htrace
  | classify | setEt | setCur | setTick =>
    have htrace := perform_registerWrite_trace (by simp) h
    simp [State.monitor, htrace, hcfg, Action.watched]

/-- The bus is at rest: `E` is 0 and the hold time has passed; once `pause` more has passed, a nibble may begin, which is the second
of its byte or not. -/
structure BusMonitor.Rests (cfg : Config) (second : Bool) (pause : Nat) (m : BusMonitor) (now : Nat) : Prop where
  ok     : m.ok = true
  low    : m.e = 0
  second : m.second = second
  held   : m.held cfg now = true
  due    : m.mayRiseFrom cfg ≤ now + pause + cfg.tSu

theorem BusMonitor.held_mono {cfg : Config} {m : BusMonitor} {now later : Nat} (hle : now ≤ later) (h : m.held cfg now = true) :
    m.held cfg later = true := by
  unfold BusMonitor.held at h ⊢
  split
  · rfl
  next f hf =>
    simp only [hf, decide_eq_true_eq] at h ⊢
    omega

/-- The pause that is left gets shorter as time passes. -/
theorem BusMonitor.Rests.later {cfg : Config} {second : Bool} {pause pause' : Nat} {m : BusMonitor} {now later : Nat}
    (h : m.Rests cfg second pause now) (hle : now ≤ later) (hpause : now + pause ≤ later + pause') :
    m.Rests cfg second pause' later := by
  have hdue := h.due
  exact ⟨h.ok, h.low, h.second, BusMonitor.held_mono hle h.held, by omega⟩

/-! ## Lists of actions on the bus -/

/-- From this monitor and this time, however long each action lasts beyond its nominal length, the actions keep the discipline, and
`Q` holds after the last of them. -/
def HoldsThrough (cfg : Config) (Q : BusMonitor → Nat → Prop) : List Action → BusMonitor → Nat → Prop
  | [], m, now      => Q m now
  | a :: as, m, now => m.ok = true ∧ ∀ later, now + a.waits ≤ later → HoldsThrough cfg Q as (a.watched cfg now m) later

/-- An action that drives no line of the display bus. -/
def Action.offBus : Action → Prop
  | .drive l _ => l = .relay
  | .wait _ | .sample | .note _ | .classify | .setEt _ | .setCur _ _ | .setTick _ => True

theorem Action.offBus.watched {a : Action} (h : a.offBus) (cfg : Config) (now : Nat) (m : BusMonitor) : a.watched cfg now m = m := by
  cases a with
  | drive l v => cases h; rfl
  | _ => rfl

namespace HoldsThrough
variable {cfg : Config} {Q R : BusMonitor → Nat → Prop} {as bs : List Action} {m : BusMonitor} {now : Nat}

theorem append (h : HoldsThrough cfg Q as m now) (hQ : ∀ m now, Q m now → HoldsThrough cfg R bs m now) :
    HoldsThrough cfg R (as ++ bs) m now := by
  induction as generalizing m now with
  | nil => exact hQ m now h
  | cons a as ih => exact ⟨h.1, fun later hle => ih (h.2 later hle)⟩

theorem ok (hQ : ∀ m now, Q m now → m.ok = true) (h : HoldsThrough cfg Q as m now) : m.ok = true := by
  cases as with
  | nil => exact hQ m now h
  | cons a as => exact h.1

/-- What holds after actions that neither show on the bus nor wait holds before them. -/
theorem before (h : HoldsThrough cfg Q as m now) (has : ∀ a ∈ as, a.offBus ∧ a.waits = 0) : Q m now := by
  induction as with
  | nil => exact h
  | cons a as ih =>
    obtain ⟨⟨hoff, hwaits⟩, has⟩ := List.forall_mem_cons.1 has
    have hnow := h.2 now (by rw [hwaits]; exact le_rfl)
    rw [hoff.watched] at hnow
    exact ih hnow has

theorem wait {d : Nat} (hok : m.ok = true) (h : ∀ later, now + d ≤ later → HoldsThrough cfg Q as m later) :
    HoldsThrough cfg Q (.wait d :: as) m now := ⟨hok, h⟩

/-- A drive of RS, RW or DB while `E` is 0 and the hold time has passed. -/
theorem line {l : Line} {v : Nibble} (hl : l = .rs ∨ (l = .rw ∧ v = 0) ∨ l = .db) (hok : m.ok = true) (hlow : m.e = 0)
    (hheld : m.held cfg now = true) (h : ∀ later, now ≤ later → HoldsThrough cfg Q as { m with lineSet := now } later) :
    HoldsThrough cfg Q (.drive l v :: as) m now := by
  have hsee : m.see cfg (.set l v now) = { m with lineSet := now } := by
    rcases hl with rfl | ⟨rfl, rfl⟩ | rfl <;> simp [BusMonitor.see, BusMonitor.line, hok, hlow, hheld]
  exact ⟨hok, by rw [Action.watched, hsee]; exact h⟩

/-- A rise of `E` when the setup time has passed and the pauses before the nibble have. -/
theorem rise (hok : m.ok = true) (hlow : m.e = 0) (hset : m.lineSet + cfg.tSu ≤ now) (hdue : m.mayRiseFrom cfg ≤ now)
    (h : ∀ later, now ≤ later → HoldsThrough cfg Q as { m with e := 1, rose := now } later) :
    HoldsThrough cfg Q (.drive .e 1 :: as) m now := by
  have hsee : m.see cfg (.set .e 1 now) = { m with e := 1, rose := now } := by
    simp [BusMonitor.see, BusMonitor.rise, bitLevel, hok, hlow, hset, hdue]
  exact ⟨hok, by rw [Action.watched, hsee]; exact h⟩

/-- A fall of `E` when the pulse width has passed. -/
theorem fall (hok : m.ok = true) (hup : m.e = 1) (hrose : m.rose + cfg.tPw ≤ now)
    (h : ∀ later, now ≤ later → HoldsThrough cfg Q as { m with e := 0, fell := some now, second := !m.second } later) :
    HoldsThrough cfg Q (.drive .e 0 :: as) m now := by
  have hsee : m.see cfg (.set .e 0 now) = { m with e := 0, fell := some now, second := !m.second } := by
    simp [BusMonitor.see, BusMonitor.fall, bitLevel, hok, hup, hrose]
  exact ⟨hok, by rw [Action.watched, hsee]; exact h⟩

end HoldsThrough

/-- One nibble keeps the discipline: the lines are driven at rest, `E` rises after the setup time, is up for the pulse width, and the
hold time passes (R51, R52). After the first nibble of a byte the second may follow, after the second the settle delay is due. -/
theorem sendNibble_holdsThrough {cfg : Config} {second : Bool} {m : BusMonitor} {now : Nat} (h : m.Rests cfg second 0 now)
    (rs : RegSel) (n : Nibble) :
    HoldsThrough cfg (BusMonitor.Rests cfg (!second) (if second then cfg.tSettle else 0)) (sendNibbleActions cfg rs n) m now := by
  obtain ⟨hok, hlow, hsecond, hheld, hdue⟩ := h
  refine .line (.inl rfl) hok hlow hheld fun t1 h1 => ?_
  refine .line (.inr (.inl ⟨rfl, rfl⟩)) hok hlow (m.held_mono h1 hheld) fun t2 h2 => ?_
  refine .line (.inr (.inr rfl)) hok hlow (m.held_mono (h1.trans h2) hheld) fun t3 h3 => ?_
  refine .wait hok fun t4 h4 => ?_
  have hdue' : m.mayRiseFrom cfg ≤ t4 := by omega
  refine .rise hok hlow (by simp only; omega) hdue' fun t5 h5 => ?_
  refine .wait hok fun t6 h6 => ?_
  refine .fall hok rfl (by simp only; omega) fun t7 h7 => ?_
  refine .wait hok fun t8 h8 => ⟨hok, rfl, by simp [hsecond], by simp [BusMonitor.held]; omega, ?_⟩
  cases second <;> simp [BusMonitor.mayRiseFrom, hsecond] <;> omega

/-! ## The block's own lists of actions -/

/-- Between two bytes the bus is at rest, and the settle delay is due (R54); before the first byte the power-up delay has passed as
well (R99). -/
def BusMonitor.BetweenBytes (cfg : Config) (m : BusMonitor) (now : Nat) : Prop := m.Rests cfg false cfg.tSettle now

theorem BusMonitor.BetweenBytes.later {cfg : Config} {m : BusMonitor} {now later : Nat} (h : m.BetweenBytes cfg now)
    (hle : now ≤ later) : m.BetweenBytes cfg later := Rests.later h hle (by omega)

/-- The actions lead the bus from between two bytes to between two bytes and keep its discipline. -/
def KeepsDiscipline (cfg : Config) (as : List Action) : Prop :=
  ∀ m now, m.BetweenBytes cfg now → HoldsThrough cfg (BusMonitor.BetweenBytes cfg) as m now

section
variable {cfg : Config}

theorem KeepsDiscipline.append {as bs : List Action} (h : KeepsDiscipline cfg as) (k : KeepsDiscipline cfg bs) :
    KeepsDiscipline cfg (as ++ bs) := fun m now hm => (h m now hm).append k

theorem keepsDiscipline_of_offBus {as : List Action} (h : ∀ a ∈ as, a.offBus) : KeepsDiscipline cfg as := by
  induction as with
  | nil => exact fun m now hm => hm
  | cons a as ih =>
    obtain ⟨ha, has⟩ := List.forall_mem_cons.1 h
    refine fun m now hm => ⟨hm.ok, fun later hle => ?_⟩
    rw [ha.watched]
    exact ih has m later (hm.later (by omega))

/-- The settle delay makes up for the pause that is due, and the second nibble may follow the first (R53, R54). -/
theorem keepsDiscipline_byte (rs : RegSel) (v : Byte) : KeepsDiscipline cfg (sendByteActions cfg rs v) := by
  refine fun m now hm => .wait hm.ok fun later hle => ?_
  have hready : m.Rests cfg false 0 later := BusMonitor.Rests.later hm (by omega) (by omega)
  exact (sendNibble_holdsThrough hready rs _).append fun m' now' hm' => sendNibble_holdsThrough hm' rs _

theorem keepsDiscipline_text (str : List Byte) : KeepsDiscipline cfg (putStringActions cfg str) := by
  induction str with
  | nil => exact keepsDiscipline_of_offBus (by simp [putStringActions])
  | cons c cs ih => exact (keepsDiscipline_byte .data c).append ih

theorem keepsDiscipline_goto (c l : Nat) : KeepsDiscipline cfg (gotoActions cfg c l) := by
  unfold gotoActions
  split
  · exact (keepsDiscipline_byte .command _).append (keepsDiscipline_of_offBus (by simp [Action.offBus]))
  · exact keepsDiscipline_of_offBus (by simp [Action.offBus])

theorem keepsDiscipline_writeAt (c l : Nat) (str : List Byte) : KeepsDiscipline cfg (writeAtActions cfg c l str) :=
  (keepsDiscipline_goto c l).append (keepsDiscipline_text str)

theorem keepsDiscipline_renderSeconds {l v : Nat} {tail : List Byte} {as : List Action}
    (h : renderSeconds cfg l v tail = .ok as) : KeepsDiscipline cfg as := by
  obtain ⟨str, rfl⟩ := renderSeconds_eq_ok h
  exact keepsDiscipline_writeAt 0 l _

theorem keepsDiscipline_banner : KeepsDiscipline cfg (bannerActions cfg) :=
  ((keepsDiscipline_writeAt 0 0 _).append (keepsDiscipline_writeAt 0 1 _)).append
    (keepsDiscipline_of_offBus (by simp [Action.offBus]))

/-- BOOT is the power-up delay, then whole bytes (R60, R95). -/
theorem bootActions_eq_cons : ∃ as, bootActions cfg = .wait cfg.tPowerup :: as ∧ KeepsDiscipline cfg as := by
  have command (v : Byte) : KeepsDiscipline cfg (putCommandActions cfg v) := keepsDiscipline_byte .command v
  exact ⟨_, rfl, (((((((command _).append (command _)).append (command _)).append (command _)).append (command _)).append
    (keepsDiscipline_goto 0 0)).append keepsDiscipline_banner).append (command _)⟩

theorem keepsDiscipline_reset : KeepsDiscipline cfg (resetActions cfg) := by
  have hclear : KeepsDiscipline cfg (putCommandActions cfg cfg.cmdClear) := keepsDiscipline_byte .command _
  exact (((hclear.append (keepsDiscipline_writeAt 0 0 _)).append (keepsDiscipline_of_offBus (by simp [Action.offBus]))).append
    keepsDiscipline_banner).append hclear

/-- The shape both adjusting handlers have: a part off the bus, the value of `ET` shown, a part off the bus. -/
theorem keepsDiscipline_adjust {v : Nat} {bs cs as : List Action} (hbs : ∀ a ∈ bs, a.offBus) (hcs : ∀ a ∈ cs, a.offBus)
    (h : Expansion.append (.ok bs) (Expansion.append (renderSeconds cfg 0 v textSecExposure) (.ok cs)) = .ok as) :
    KeepsDiscipline cfg as := by
  obtain ⟨str, rfl⟩ := append_renderSeconds_eq_ok h
  exact (keepsDiscipline_of_offBus hbs).append ((keepsDiscipline_writeAt 0 0 _).append (keepsDiscipline_of_offBus hcs))

theorem keepsDiscipline_countdown {n : Nat} {as : List Action} (h : countdownActions cfg n = .ok as) : KeepsDiscipline cfg as := by
  induction n generalizing as with
  | zero => cases h; exact keepsDiscipline_of_offBus (by simp)
  | succ n ih =>
    simp only [countdownActions, tickActions, Expansion.append_eq_ok] at h
    obtain ⟨bs, _, hbs, ⟨_, _, ⟨⟩, hrender, rfl⟩, rfl⟩ := h
    exact (ih hbs).append ((keepsDiscipline_of_offBus (by simp [Action.offBus])).append (keepsDiscipline_renderSeconds hrender))

theorem keepsDiscipline_expose {et : Seconds} {as : List Action} (h : exposeActions cfg et = .ok as) : KeepsDiscipline cfg as := by
  simp only [exposeActions, Expansion.append_eq_ok] at h
  obtain ⟨_, _, hrender, ⟨_, _, ⟨⟩, ⟨_, _, ⟨⟩, ⟨mid, _, hmid, ⟨⟩, rfl⟩, rfl⟩, rfl⟩, rfl⟩ := h
  exact (keepsDiscipline_renderSeconds hrender).append ((keepsDiscipline_writeAt 0 1 _).append
    ((keepsDiscipline_of_offBus (by simp [Action.offBus])).append ((keepsDiscipline_countdown hmid).append
      (keepsDiscipline_of_offBus (by simp [Action.offBus])))))

theorem pollActions_quiet (x : Option Nat) : ∀ a ∈ pollActions x, a.offBus ∧ a.waits = 0 := by
  unfold pollActions
  split <;> simp [Action.offBus, Action.waits]

/-- Every phase keeps the discipline of the bus, under every configuration. -/
theorem phaseActions_keepsDiscipline {q : Seq} {et : Seconds} {x : Option Nat} {as : List Action}
    (h : phaseActions cfg q et x = .ok as) : KeepsDiscipline cfg as := by
  cases q with
  | boot k =>
    cases h
    obtain ⟨bs, hboot, hbs⟩ := bootActions_eq_cons (cfg := cfg)
    rw [hboot]
    exact (keepsDiscipline_of_offBus (as := [.wait cfg.tPowerup]) (by simp [Action.offBus])).append hbs
  | poll k => cases h; exact keepsDiscipline_of_offBus fun a ha => (pollActions_quiet x a ha).1
  | handle z k =>
    cases z with
    | idle => cases h; exact keepsDiscipline_of_offBus (by simp [idleActions, Action.offBus])
    | increment | decrement => exact keepsDiscipline_adjust (by split <;> simp [Action.offBus]) (by simp [Action.offBus]) h
    | reset => cases h; exact keepsDiscipline_reset
    | expose => exact keepsDiscipline_expose h

end

/-! ## Every run of the block's own program -/

/-- What every state of a run keeps: whatever the delays are, the rest of the phase keeps the discipline of the bus. -/
structure StaysDisciplined (s : State) : Prop where
  noScript : s.script = []
  rest     : HoldsThrough s.cfg (BusMonitor.BetweenBytes s.cfg) s.restOfPhase s.monitor s.time

theorem StaysDisciplined.ok {s : State} (h : StaysDisciplined s) : s.monitor.ok = true := h.rest.ok fun _ _ hm => hm.ok

theorem StaysDisciplined.of_start {s : State} (hscript : s.script = []) (hindex : s.seq.index = 0)
    (h : s.monitor.BetweenBytes s.cfg s.time) : StaysDisciplined s := by
  refine ⟨hscript, ?_⟩
  cases hlist : s.phaseList with
  | error x => simpa [State.restOfPhase, hlist, HoldsThrough] using h
  | ok as =>
    rw [State.restOfPhase_of_list hlist, hindex, List.drop_zero]
    exact phaseActions_keepsDiscipline (s.phaseList_eq.symm.trans hlist) _ _ h

/-- After a reset no nibble is due before the power-up delay, with which BOOT begins (R93, R99). -/
theorem staysDisciplined_atReset (cfg : Config) (env : Env) : StaysDisciplined (State.atReset cfg env []) := by
  refine ⟨rfl, ?_⟩
  obtain ⟨as, hboot, has⟩ := bootActions_eq_cons (cfg := cfg)
  have hlist : (State.atReset cfg env []).phaseList = .ok (.wait cfg.tPowerup :: as) := congrArg Except.ok hboot
  rw [State.restOfPhase_of_list hlist]
  refine .wait rfl fun later hle => has _ _ ⟨rfl, rfl, rfl, rfl, ?_⟩
  have hpowerup : 0 + cfg.tPowerup ≤ later := hle
  change cfg.tPowerup + cfg.tSettle + cfg.tSu ≤ later + cfg.tSettle + cfg.tSu
  omega

/-- An action of a phase is performed: the rest of the phase goes on keeping the discipline from there. -/
theorem holdsThrough_of_perform {s u : State} {as bs : List Action} {a : Action} (hlist : s.phaseList = .ok as)
    (ha : as[s.seq.index]? = some a) (hu : perform a s.atPhaseStart = .next u) (hbs : u.runningList = .ok bs)
    (h : HoldsThrough s.cfg (BusMonitor.BetweenBytes s.cfg) (as.drop s.seq.index) s.monitor s.time) :
    HoldsThrough u.cfg (BusMonitor.BetweenBytes u.cfg) (bs.drop (s.seq.index + 1)) u.monitor u.time := by
  have hcfg : u.cfg = s.cfg := by simpa using (perform_frame hu).1.cfg
  have htime : s.time + a.waits ≤ u.time := by
    simpa [s.atPhaseStart_field State.time rfl] using (perform_takes hu).1
  have hmonitor : u.monitor = a.watched s.cfg s.time s.monitor := by
    simpa [s.atPhaseStart_field State.time rfl, s.atPhaseStart_field State.monitor rfl] using perform_monitor hu
  obtain ⟨hlt, rfl⟩ := List.getElem?_eq_some_iff.1 ha
  rw [List.drop_eq_getElem_cons hlt] at h
  have hrest := h.2 u.time htime
  rw [hcfg, hmonitor]
  by_cases hq : ∃ k, s.seq = .poll k
  · obtain ⟨k, hk⟩ := hq
    cases (phaseList_poll hk).symm.trans hlist
    cases (runningList_poll ((perform_atPhaseStart_seq hu).trans hk)).symm.trans hbs
    have quiet (x : Option Nat) (n : Nat) : ∀ a ∈ (pollActions x).drop n, a.offBus ∧ a.waits = 0 :=
      fun a ha => pollActions_quiet x a (List.mem_of_mem_drop ha)
    exact keepsDiscipline_of_offBus (fun a ha => (quiet _ _ a ha).1) _ _ (hrest.before (quiet _ _))
  · have hrunning : s.phaseList = .ok bs := (runningList_of_perform (not_exists.1 hq) hu).symm.trans hbs
    cases hlist.symm.trans hrunning
    exact hrest

theorem StaysDisciplined.programStep {s t : State} (hs : StaysDisciplined s) (h : programStep s = .next t) : StaysDisciplined t := by
  have hscript := (programStep_surroundings h).script.trans hs.noScript
  have hrest := hs.rest
  have left {u : State} (hu : u.monitor.BetweenBytes u.cfg u.time) (hleave : leavePhase u = .next t) : StaysDisciplined t := by
    obtain ⟨hsur, htrace, hindex⟩ := leavePhase_next hleave
    have htime := (later_stepClosed.leavePhase _ _ hleave).1
    exact .of_start hscript hindex (by rw [State.monitor, htrace, hsur.cfg]; exact hu.later htime)
  obtain ⟨as, hlist, ⟨a, u, ha, hu, ht⟩ | ⟨hpast, hleave⟩⟩ := programStep_next_cases h
  · obtain ⟨bs, hbs, hcases⟩ := advance_next_cases ht
    rw [State.restOfPhase_of_list hlist] at hrest
    replace hrest := holdsThrough_of_perform hlist ha hu hbs hrest
    rcases hcases with ⟨-, rfl⟩ | ⟨hend, hleave⟩
    · refine ⟨hscript, ?_⟩
      rw [State.restOfPhase_of_list (as := bs) (by simpa using hbs)]
      simpa [State.monitor] using hrest
    · rw [List.drop_of_length_le hend] at hrest
      exact left hrest hleave
  · rw [State.restOfPhase_of_list hlist, List.drop_of_length_le hpast] at hrest
    exact left hrest hleave

theorem StaysDisciplined.step {s t : State} (hs : StaysDisciplined s) (h : step s = .next t) : StaysDisciplined t := by
  unfold Machine.step at h
  split at h
  · split at h
    next p _ =>
      obtain ⟨u, hu, ht⟩ := andThen_eq_next.1 h
      cases ht
      rw [takeReset, (abandoned_surroundings hs.noScript hu).script, hs.noScript]
      exact staysDisciplined_atReset _ _
    · rw [hs.noScript] at h
      exact hs.programStep h
  · cases h

theorem StaysDisciplined.runSteps {s t : State} {n : Nat} (hs : StaysDisciplined s) (h : runSteps n s = .next t) : StaysDisciplined t := by
  induction n generalizing s with
  | zero => cases h; exact hs
  | succ n ih =>
    obtain ⟨u, hu, ht⟩ := andThen_eq_next.1 h
    exact ih (hs.step hu) ht

/-- Settles O57: the discipline holds at reset, every step keeps it, and so does a reset. -/
theorem ownProgramKeepsTheBusDiscipline : Obligations.OwnProgramKeepsTheBusDiscipline := by
  intro cfg env n t h
  rw [core_run_eq_runSteps] at h
  exact ((staysDisciplined_atReset cfg env).runSteps h).ok

end Sys2Proof.Machine
end

section
/-!
PROOFS of the obligations of spec/41_display_driver.md: the driver's operations as sequences of others, with their events, times and
cursor (R56 to R63), the decimal text of a number (R61), and what a display in step shows after `renderLine` (R37 to R40, R63).
-/

namespace Sys2Proof.Machine

/-! ## The driver's lists of actions -/

theorem Action.isDriver.displayOnly {a : Action} (h : a.isDriver) : a.displayOnly = true := by
  cases a with
  | wait | note | setCur => rfl
  | _ => exact h.elim

/-- A list of the driver always runs to its end; its events are its signals, its time its waits, and it stays within the display. -/
theorem Nibbled.runActions_driver {cfg : Config} {as : List Action} (h : Nibbled cfg Action.isDriver as) (s : State) :
    ∃ t, runActions as s = .next t ∧ appends s t (as.flatMap Action.signals) ∧ takes s t (as.map Action.waits).sum ∧
      SameBeyondDisplay s t := by
  have htotal : as.all Action.total = true := List.all_eq_true.2 <|
    h.forall_mem (fun _ => Action.isDriver.total) fun rs n => List.all_eq_true.1 (sendNibble_total cfg rs n)
  have hdisplay : as.all Action.displayOnly = true := List.all_eq_true.2 <|
    h.forall_mem (fun _ => Action.isDriver.displayOnly) fun rs n => List.all_eq_true.1 (sendNibble_displayOnly cfg rs n)
  obtain ⟨t, ht⟩ := runActions_total htotal s
  exact ⟨t, ht, runActions_display htotal hdisplay ht⟩

/-- Under a configuration, instructions one after the other perform a list of actions. -/
def Performs (cfg : Config) (is : List Instr) (as : List Action) : Prop :=
  ∀ s : State, s.cfg = cfg → execAll is s = runActions as s

theorem Performs.nil (cfg : Config) : Performs cfg [] [] := fun _ _ => rfl

/-- The next instruction finds the configuration as it was, since no action writes it. -/
theorem Performs.cons {cfg : Config} {i : Instr} {is : List Instr} {as bs : List Action}
    (hi : ∀ s : State, s.cfg = cfg → exec i s = runActions as s) (his : Performs cfg is bs) : Performs cfg (i :: is) (as ++ bs) := by
  intro s hs
  rw [execAll_cons, runActions_append, hi s hs]
  exact andThen_congr fun u hu => his u ((runActions_frame hu).1.cfg.trans hs)

theorem Performs.wait {cfg : Config} {is : List Instr} {bs : List Action} (d : Nat) (h : Performs cfg is bs) :
    Performs cfg (.wait d :: is) (.wait d :: bs) :=
  .cons (as := [.wait d]) (fun s _ => (runActions_singleton (.wait d) s).symm) h

theorem Performs.putCmd {cfg : Config} {is : List Instr} {bs : List Action} (v : Byte) (h : Performs cfg is bs) :
    Performs cfg (.putCmd v :: is) (putCommandActions cfg v ++ bs) :=
  .cons (by rintro s rfl; rfl) h

theorem Performs.gotoPos {cfg : Config} {is : List Instr} {bs : List Action} (c l : Nat) (h : Performs cfg is bs) :
    Performs cfg (.gotoPos c l :: is) (gotoActions cfg c l ++ bs) :=
  .cons (by rintro s rfl; rfl) h

/-! ## Commands and characters -/

/-- Settles O18: PUTCMD performs one byte. -/
theorem putCommandSendsACommandByte : Obligations.PutCommandSendsACommandByte :=
  fun v s => ⟨rfl, runActions_sendByte .command v s⟩

/-- Settles O19: PUTCHAR performs one byte. -/
theorem putCharSendsADataByte : Obligations.PutCharSendsADataByte :=
  fun ch s => ⟨rfl, runActions_sendByte .data ch s⟩

/-! ## Texts -/

section
variable (cfg : Config)

theorem putStringActions_append (xs ys : List Byte) :
    putStringActions cfg (xs ++ ys) = putStringActions cfg xs ++ putStringActions cfg ys := by
  induction xs with
  | nil => rfl
  | cons x xs ih => rw [List.cons_append, putStringActions, putStringActions, ih, List.append_assoc]

@[simp] theorem putStringActions_signals (str : List Byte) :
    (putStringActions cfg str).flatMap Action.signals = textSignals cfg str := by
  induction str with
  | nil => rfl
  | cons c cs ih => rw [putStringActions, List.flatMap_append, ih, putCharActions, sendByte_signals]; rfl

@[simp] theorem putStringActions_waits (str : List Byte) :
    ((putStringActions cfg str).map Action.waits).sum = str.length * byteTime cfg := by
  induction str with
  | nil => simp [putStringActions]
  | cons c cs ih =>
    rw [putStringActions, List.map_append, List.sum_append, ih, putCharActions, sendByte_waits, List.length_cons, Nat.succ_mul,
      Nat.add_comm]

theorem putStringActions_ne_setCur (str : List Byte) : ∀ a ∈ putStringActions cfg str, ∀ c l, a ≠ .setCur c l :=
  (putStringActions_nibbled cfg str).forall_mem (fun a ha c l => by rintro rfl; exact ha) fun rs n => sendNibble_noCur cfg rs n

variable {cfg}

theorem runActions_putString_cur {str : List Byte} {s t : State} (h : runActions (putStringActions cfg str) s = .next t) :
    sameCursor s t := runActions_cur (putStringActions_ne_setCur cfg str) h

/-- A text leaves the bus as its last character does. -/
theorem runActions_putString_bus {str : List Byte} {v : Byte} {s t : State} (hv : str.getLast? = some v)
    (h : runActions (putStringActions cfg str) s = .next t) : busAfterByte .data v t := by
  obtain ⟨front, rfl⟩ := List.getLast?_eq_some_iff.1 hv
  rw [putStringActions_append, runActions_append] at h
  obtain ⟨u, -, hlast⟩ := andThen_eq_next.1 h
  exact sendByte_bus (by simpa [putStringActions, putCharActions] using hlast)

end

theorem performs_putChars (cfg : Config) (str : List Byte) : Performs cfg (str.map .putChar) (putStringActions cfg str) := by
  induction str with
  | nil => exact .nil cfg
  | cons c cs ih => exact .cons (by rintro s rfl; rfl) ih

/-- Settles O21: the text's list of actions is that of its characters, and its last byte is the last character. -/
theorem putStringSendsItsCharactersInOrder : Obligations.PutStringSendsItsCharactersInOrder := by
  intro str s
  have hdriver := (putStringActions_nibbled s.cfg str).mono fun _ => Action.isPause.isDriver
  obtain ⟨t, ht, hevents, htime, hsame⟩ := hdriver.runActions_driver s
  rw [putStringActions_signals] at hevents
  rw [putStringActions_waits] at htime
  exact ⟨(performs_putChars s.cfg str s rfl).symm, fun hempty => by rw [hempty]; rfl,
    t, ht, hevents, fun v hv => runActions_putString_bus hv ht, htime, hsame, runActions_putString_cur ht⟩

/-! ## The cursor -/

theorem positionInRange_iff {cfg : Config} {c l : Nat} :
    positionInRange cfg c l = true ↔ c < cfg.cols ∧ c ≤ 15 ∧ l < cfg.lines ∧ l ≤ 1 := by
  simp [positionInRange, and_assoc]

theorem positionInRange_standard {cfg : Config} (h : standardGeometry cfg) {l : Nat} : positionInRange cfg 0 l = true ↔ l ≤ 1 := by
  obtain ⟨hcols, hlines⟩ := h
  rw [positionInRange_iff, hcols, hlines]
  omega

section
variable {cfg : Config} {c l : Nat}

theorem gotoActions_of_inRange (h : positionInRange cfg c l = true) :
    gotoActions cfg c l = putCommandActions cfg (setAddressByte cfg c l) ++
      [.wait cfg.tSettle, .setCur (BitVec.ofNat 4 c) (BitVec.ofNat 1 l)] := if_pos h

theorem gotoActions_of_not_inRange (h : ¬ positionInRange cfg c l = true) : gotoActions cfg c l = [.note .addressOutOfRange] :=
  if_neg h

theorem gotoActions_signals (h : positionInRange cfg c l = true) :
    (gotoActions cfg c l).flatMap Action.signals = gotoSignals cfg c l := by
  rw [gotoActions_of_inRange h, List.flatMap_append, putCommandActions, sendByte_signals]
  rfl

theorem gotoActions_waits (h : positionInRange cfg c l = true) : ((gotoActions cfg c l).map Action.waits).sum = gotoTime cfg := by
  rw [gotoActions_of_inRange h, List.map_append, List.sum_append, putCommandActions, sendByte_waits]
  rfl

/-- An in-range move leaves the cell in `CUR` and the set-address command on the bus (R16, R59). -/
theorem runActions_goto_cur {s t : State} (h : positionInRange cfg c l = true) (ht : runActions (gotoActions cfg c l) s = .next t) :
    t.curCol.toNat = c ∧ t.curLine.toNat = l ∧ busAfterByte .command (setAddressByte cfg c l) t := by
  obtain ⟨-, hc, -, hl⟩ := positionInRange_iff.1 h
  rw [gotoActions_of_inRange h, runActions_append] at ht
  obtain ⟨u, hbyte, ⟨⟩⟩ := andThen_eq_next.1 ht
  have hbus : busAfterByte .command (setAddressByte cfg c l) u := sendByte_bus (cfg := cfg) hbyte
  exact ⟨Nat.mod_eq_of_lt (by omega), Nat.mod_eq_of_lt (by omega), hbus⟩

/-- An in-range move is the command, the settle delay and the shadow cursor (R59). -/
theorem exec_gotoPos_of_inRange {s : State} (h : positionInRange s.cfg c l = true) :
    exec (.gotoPos c l) s = andThen (execAll [.putCmd (setAddressByte s.cfg c l), .wait s.cfg.tSettle] s)
      (perform (.setCur (BitVec.ofNat 4 c) (BitVec.ofNat 1 l))) := by
  have hsend : Performs s.cfg [.putCmd (setAddressByte s.cfg c l), .wait s.cfg.tSettle] _ := .putCmd _ (.wait _ (.nil _))
  rw [hsend s rfl, exec_gotoPos, gotoActions_of_inRange h, List.append_cons, runActions_append]
  exact andThen_congr fun u _ => runActions_singleton _ u

end

/-- Settles O22: in range the move's own list of actions, out of range the one note. -/
theorem gotoMovesTheCursorOnlyInRange : Obligations.GotoMovesTheCursorOnlyInRange := by
  intro c l s
  obtain ⟨t, ht, hevents, htime, hsame⟩ := (gotoActions_nibbled s.cfg c l).runActions_driver s
  refine ⟨t, ht, hsame, ?_⟩
  simp only [← positionInRange_iff]
  split
  · next hin =>
    obtain ⟨hcol, hline, hbus⟩ := runActions_goto_cur hin ht
    rw [gotoActions_signals hin] at hevents
    rw [gotoActions_waits hin] at htime
    exact ⟨exec_gotoPos_of_inRange hin, hevents, hcol, hline, hbus, htime⟩
  · next hout =>
    rw [gotoActions_of_not_inRange hout] at ht htime
    cases ht
    exact ⟨rfl, ⟨rfl, rfl, rfl, rfl⟩, ⟨rfl, rfl⟩, htime⟩

/-! ## The initialisation -/

theorem performs_init (cfg : Config) :
    Performs cfg [.wait cfg.tPowerup, .putCmd cfg.cmdReset, .putCmd cfg.cmdFunctionSet, .putCmd cfg.cmdDisplayCtrl,
      .putCmd cfg.cmdEntryMode, .putCmd cfg.cmdClear, .gotoPos 0 0] (initActions cfg) := by
  have h := ((((((Performs.nil cfg).gotoPos 0 0).putCmd cfg.cmdClear).putCmd cfg.cmdEntryMode).putCmd cfg.cmdDisplayCtrl).putCmd
    cfg.cmdFunctionSet).putCmd cfg.cmdReset |>.wait cfg.tPowerup
  simpa only [initActions, List.append_assoc, List.append_nil] using h

theorem initActions_waits {cfg : Config} (h : positionInRange cfg 0 0 = true) :
    ((initActions cfg).map Action.waits).sum = initTime cfg := by
  simp only [initActions, putCommandActions, List.map_cons, List.map_append, List.sum_cons, List.sum_append, sendByte_waits,
    gotoActions_waits h, Action.waits, gotoTime, initTime]
  omega

/-- INIT ends with the move to the first cell. -/
theorem runActions_init_goto {cfg : Config} {s t : State} (h : runActions (initActions cfg) s = .next t) :
    ∃ u, runActions (gotoActions cfg 0 0) u = .next t := by
  rw [initActions, ← List.cons_append, runActions_append] at h
  obtain ⟨u, -, hgoto⟩ := andThen_eq_next.1 h
  exact ⟨u, hgoto⟩

/-- Settles O24: the sequence has the operations' actions, and its last operation is the move to the first cell. -/
theorem initSendsItsSequence : Obligations.InitSendsItsSequence := by
  intro s hgeometry
  have hin : positionInRange s.cfg 0 0 = true := (positionInRange_standard hgeometry).2 (Nat.zero_le 1)
  obtain ⟨t, ht, hevents, htime, hsame⟩ := (initActions_nibbled s.cfg).runActions_driver s
  rw [initActions_signals hin] at hevents
  rw [initActions_waits hin] at htime
  obtain ⟨u, hgoto⟩ := runActions_init_goto ht
  obtain ⟨hcol, hline, hbus⟩ := runActions_goto_cur hin hgoto
  exact ⟨(performs_init s.cfg s rfl).symm, t, ht, hevents, BitVec.eq_of_toNat_eq hcol, BitVec.eq_of_toNat_eq hline, hbus, htime,
    hsame⟩

/-! ## A text at a position -/

theorem performs_writeAt (cfg : Config) (c l : Nat) (str : List Byte) :
    Performs cfg [.gotoPos c l, .putStr str] (writeAtActions cfg c l str) := by
  have htext : Performs cfg [.putStr str] (putStringActions cfg str ++ []) := .cons (by rintro s rfl; rfl) (.nil cfg)
  rw [List.append_nil] at htext
  exact htext.gotoPos c l

/-- The text does not move the cursor on. -/
theorem runActions_writeAt_cur {cfg : Config} {c l : Nat} {str : List Byte} {s t : State}
    (h : runActions (writeAtActions cfg c l str) s = .next t) :
    ∃ u, runActions (gotoActions cfg c l) s = .next u ∧ sameCursor u t := by
  rw [writeAtActions, runActions_append] at h
  obtain ⟨u, hgoto, htext⟩ := andThen_eq_next.1 h
  exact ⟨u, hgoto, runActions_putString_cur htext⟩

/-- A text at an in-range position: the move, then the characters (R62). -/
theorem exec_writeAt_of_inRange {c l : Nat} {s : State} (hin : positionInRange s.cfg c l = true) (str : List Byte) :
    ∃ t, exec (.writeAt c l str) s = .next t ∧ SameBeyondDisplay s t ∧ appends s t (writeAtSignals s.cfg c l str) ∧
      t.curCol.toNat = c ∧ t.curLine.toNat = l ∧ takes s t (writeAtTime s.cfg str.length) := by
  obtain ⟨t, ht, hevents, htime, hsame⟩ := (writeAtActions_nibbled s.cfg c l str).runActions_driver s
  obtain ⟨u, hgoto, hcol, hline⟩ := runActions_writeAt_cur ht
  obtain ⟨hucol, huline, -⟩ := runActions_goto_cur hin hgoto
  rw [writeAtActions, List.flatMap_append, gotoActions_signals hin, putStringActions_signals] at hevents
  rw [writeAtActions, List.map_append, List.sum_append, gotoActions_waits hin, putStringActions_waits] at htime
  exact ⟨t, ht, hsame, hevents, by rw [hcol, hucol], by rw [hline, huline], htime⟩

/-- A text at an out-of-range position: the note, then the characters all the same (R62). -/
theorem exec_writeAt_of_not_inRange {c l : Nat} {s : State} (hout : ¬ positionInRange s.cfg c l = true) (str : List Byte) :
    ∃ t, exec (.writeAt c l str) s = .next t ∧ SameBeyondDisplay s t ∧
      appends s t (.err .addressOutOfRange :: textSignals s.cfg str) ∧ sameCursor s t ∧
      takes s t (str.length * byteTime s.cfg) := by
  obtain ⟨t, ht, hevents, htime, hsame⟩ := (writeAtActions_nibbled s.cfg c l str).runActions_driver s
  obtain ⟨u, hgoto, hcur⟩ := runActions_writeAt_cur ht
  rw [gotoActions_of_not_inRange hout] at hgoto
  rw [writeAtActions, gotoActions_of_not_inRange hout, List.flatMap_append, putStringActions_signals] at hevents
  rw [writeAtActions, gotoActions_of_not_inRange hout, List.map_append, List.sum_append, putStringActions_waits] at htime
  exact ⟨t, ht, hsame, hevents, (runActions_cur (by simp) hgoto).trans hcur, by simpa [Action.waits] using htime⟩

/-- Settles O25: the move's list of actions, then the text's. -/
theorem writeAtIsGotoThenPutString : Obligations.WriteAtIsGotoThenPutString := by
  intro c l str s
  refine ⟨(performs_writeAt s.cfg c l str s rfl).symm, ?_⟩
  simp only [← positionInRange_iff]
  split
  · next hin => exact exec_writeAt_of_inRange hin str
  · next hout => exact exec_writeAt_of_not_inRange hout str

/-! ## A whole line -/

theorem padLine_standard {cfg : Config} (h : standardGeometry cfg) (str : List Byte) :
    padLine cfg str = str ++ List.replicate (16 - str.length) 0x20 := by
  rw [padLine, h.1]
  rfl

theorem length_padLine {cfg : Config} (h : standardGeometry cfg) {str : List Byte} (hstr : str.length ≤ 16) :
    (padLine cfg str).length = cfg.cols := by
  rw [padLine, List.length_append, List.length_replicate, h.1]
  omega

theorem exec_render_eq_writeAt {l : Nat} {str : List Byte} (hstr : str.length ≤ 16) (s : State) :
    exec (.render l str) s = exec (.writeAt 0 l (padLine s.cfg str)) s := exec_render s l str hstr

/-- RENDER on one of the two lines (R63). -/
theorem exec_render_of_line {l : Nat} {str : List Byte} {s : State} (hgeometry : standardGeometry s.cfg) (hstr : str.length ≤ 16)
    (hl : l ≤ 1) :
    ∃ t, exec (.render l str) s = .next t ∧ SameBeyondDisplay s t ∧ appends s t (lineSignals s.cfg l str) ∧ t.curCol = 0 ∧
      t.curLine.toNat = l ∧ takes s t (lineTime s.cfg) := by
  obtain ⟨t, ht, hsame, hevents, hcol, hline, htime⟩ :=
    exec_writeAt_of_inRange ((positionInRange_standard hgeometry).2 hl) (padLine s.cfg str)
  rw [length_padLine hgeometry hstr] at htime
  exact ⟨t, (exec_render_eq_writeAt hstr s).trans ht, hsame, hevents, BitVec.eq_of_toNat_eq hcol, hline, htime⟩

/-- RENDER on any other line (R49, R62). -/
theorem exec_render_of_no_line {l : Nat} {str : List Byte} {s : State} (hgeometry : standardGeometry s.cfg) (hstr : str.length ≤ 16)
    (hl : 1 < l) :
    ∃ t, exec (.render l str) s = .next t ∧ SameBeyondDisplay s t ∧
      appends s t (.err .addressOutOfRange :: textSignals s.cfg (padLine s.cfg str)) ∧ sameCursor s t := by
  have hout : ¬ positionInRange s.cfg 0 l = true := by rw [positionInRange_standard hgeometry]; omega
  obtain ⟨t, ht, hsame, hevents, hcur, -⟩ := exec_writeAt_of_not_inRange hout (padLine s.cfg str)
  exact ⟨t, (exec_render_eq_writeAt hstr s).trans ht, hsame, hevents, hcur⟩

/-- Settles O26: WRITEAT of the padded text on the two lines and on any other, and both refusals of a longer text. -/
theorem renderWritesAWholeLine : Obligations.RenderWritesAWholeLine := by
  intro l str s hgeometry
  refine ⟨fun hstr => ⟨?_, ?_⟩, fun hlong => ⟨exec_render_long s l str hlong, fun hquotable => ?_⟩⟩
  · rw [← padLine_standard hgeometry]
    exact exec_render_eq_writeAt hstr s
  · rcases le_or_gt l 1 with hl | hl
    · obtain ⟨t, ht, hsame, hline⟩ := exec_render_of_line hgeometry hstr hl
      exact ⟨t, ht, hsame, fun _ => hline, fun hother => by omega⟩
    · obtain ⟨t, ht, hsame, hother⟩ := exec_render_of_no_line hgeometry hstr hl
      exact ⟨t, ht, hsame, fun hline => by omega, fun _ => hother⟩
  · rw [decode_render l hquotable]
    exact if_neg (by omega)

/-! ## The decimal text of a number -/

theorem decText_of_above {v : Nat} (h : 99 < v) : decText v = none := if_pos h

theorem decText_of_digit {v : Nat} (h : v < 10) : decText v = some [digitChar v] := by
  rw [decText, if_neg (by omega), if_pos h]

theorem decText_of_two_digits {v : Nat} (h : 10 ≤ v) (h99 : v ≤ 99) : decText v = some [digitChar (v / 10), digitChar (v % 10)] := by
  rw [decText, if_neg (by omega), if_neg (by omega)]

/-- A number above 99 cannot be shown (R61). -/
theorem renderSeconds_of_above (cfg : Config) (l : Nat) {v : Nat} (tail : List Byte) (h : 99 < v) :
    renderSeconds cfg l v tail = .error (.decOutOfDomain v) := by
  rw [renderSeconds, secondsText, decText_of_above h]

@[simp] theorem Expansion.append_error_left (h : Fault) (y : Expansion) : Expansion.append (.error h) y = .error h := by
  cases y <;> rfl

@[simp] theorem Expansion.append_error_right (as : List Action) (h : Fault) :
    Expansion.append (.ok as) (.error h) = .error h := rfl

/-- Settles O27: `dec` by its three cases; each handler has no list of actions where the number it shows has no text. -/
theorem decIsOneOrTwoDigits : Obligations.DecIsOneOrTwoDigits := by
  refine ⟨fun v => decText_of_digit, fun v => decText_of_two_digits, fun v => decText_of_above, fun s h => ?_, fun s h => ?_,
    fun s h => ?_⟩
  · simp [exec_hExpose, exposeActions, renderSeconds_of_above _ _ _ h]
  · simp [exec_hInc, incrementActions, renderSeconds_of_above _ _ _ h]
  · simp [exec_hDec, decrementActions, renderSeconds_of_above _ _ _ h]

/-! ## What a display in step shows (R37 to R40) -/

theorem Display.inStep_iff {d : Display} :
    d.inStep = true ↔ d.betweenBytes ∧ d.twoLines = 1 ∧ d.id = 1 ∧ d.sh = 0 ∧ d.cells.length = 128 := by
  simp [Display.inStep, Display.betweenBytes, and_assoc]

/-- Between bytes the characters of a text are taken one after the other. -/
theorem Display.betweenBytes.observeSignals_text (w : DisplayDraws) (cfg : Config) (str : List Byte) {x : BusLines × Display}
    (hx : x.2.betweenBytes) :
    (observeSignals w (textSignals cfg str) x).2 = str.foldl (fun d c => takeData w c d) x.2 := by
  induction str generalizing x with
  | nil => rfl
  | cons c cs ih =>
    have hbyte : (observeSignals w (byteSignals cfg .data c) x).2 = takeData w c x.2 := hx.observeSignals_byte w cfg .data c
    rw [textSignals, List.flatMap_cons, observeSignals_append, List.foldl_cons, ← hbyte]
    exact ih (hbyte ▸ hx)

/-- A text written over the cells from an address on. -/
def overwrite (cells : List Byte) (a : Nat) (str : List Byte) : List Byte :=
  cells.take a ++ str ++ cells.drop (a + str.length)

section
variable {cells str : List Byte} {a : Nat}

theorem overwrite_nil : overwrite cells a [] = cells := by simp [overwrite]

theorem overwrite_cons {c : Byte} (h : a < cells.length) : overwrite (cells.set a c) (a + 1) str = overwrite cells a (c :: str) := by
  have htake : (cells.set a c).take (a + 1) = cells.take a ++ [c] := by
    rw [List.take_add_one, List.take_set_of_le le_rfl]
    simp [h]
  have hdrop : (cells.set a c).drop (a + 1 + str.length) = cells.drop (a + (str.length + 1)) := by
    rw [List.drop_set_of_lt (by omega), Nat.add_assoc, Nat.add_comm 1]
  simp [overwrite, htake, hdrop]

theorem length_overwrite (h : a + str.length ≤ cells.length) : (overwrite cells a str).length = cells.length := by
  simp [overwrite]
  omega

/-- The cells that the text is written over show the text. -/
theorem take_drop_overwrite_same (h : a ≤ cells.length) : ((overwrite cells a str).drop a).take str.length = str := by
  simp [overwrite, h]

/-- Cells before the text stay. -/
theorem take_drop_overwrite_before {b n : Nat} (hb : b + n ≤ a) (h : a ≤ cells.length) :
    ((overwrite cells a str).drop b).take n = (cells.drop b).take n := by
  have htake : (overwrite cells a str).take (b + n) = cells.take (b + n) := by
    rw [overwrite, List.append_assoc, List.take_append_of_le_length (by rw [List.length_take]; omega), List.take_take,
      min_eq_left hb]
  rw [List.take_drop, List.take_drop, htake]

/-- Cells after the text stay. -/
theorem drop_overwrite_after {b : Nat} (hb : a + str.length ≤ b) (h : a ≤ cells.length) :
    (overwrite cells a str).drop b = cells.drop b := by
  have hwritten : (cells.take a ++ str).length = a + str.length := by rw [List.length_append, List.length_take, min_eq_left h]
  rw [overwrite, List.drop_append, hwritten, List.drop_drop, List.drop_eq_nil_of_le (by omega), List.nil_append,
    Nat.add_sub_cancel' hb]

end

/-- A display with other cells and another address, and otherwise as it was. -/
def Display.withCells (cells : List Byte) (a : BitVec 7) (d : Display) : Display := { d with cells := cells, ac := a }

section
variable (d : Display) (cells cells' : List Byte) (a a' : BitVec 7)

@[simp] theorem Display.withCells_cells : (d.withCells cells a).cells = cells := rfl
@[simp] theorem Display.withCells_ac : (d.withCells cells a).ac = a := rfl
@[simp] theorem Display.withCells_withCells : (d.withCells cells a).withCells cells' a' = d.withCells cells' a' := rfl

variable {d cells}

theorem Display.withCells_inStep (hd : d.inStep = true) (hcells : cells.length = d.cells.length) :
    (d.withCells cells a).inStep = true := by
  obtain ⟨hbetween, htwo, hid, hsh, hlength⟩ := Display.inStep_iff.1 hd
  exact Display.inStep_iff.2 ⟨hbetween, htwo, hid, hsh, hcells.trans hlength⟩

end

/-- The next address on a line that has cells left (R37, R39). -/
theorem nextAddress_of_room (w : DisplayDraws) {d : Display} (hid : d.id = 1) (hroom : d.ac.toNat % 64 < 39) :
    nextAddress w d = d.ac + 1 := by
  have hne (a : BitVec 7) (ha : 39 ≤ a.toNat % 64) : d.ac ≠ a := by rintro rfl; omega
  rw [nextAddress, if_pos hid, if_neg fun h => hne 0x27 (by decide) h.2, if_neg fun h => hne 0x67 (by decide) h.2,
    if_neg (hne 0x7F (by decide))]

/-- A character on a line that has cells left (R39). -/
theorem takeData_of_room (w : DisplayDraws) (c : Byte) {d : Display} (hd : d.inStep = true) (hroom : d.ac.toNat % 64 < 39) :
    takeData w c d = d.withCells (d.cells.set d.ac.toNat c) (d.ac + 1) := by
  obtain ⟨-, -, hid, hsh, -⟩ := Display.inStep_iff.1 hd
  simp [takeData, nextAddress_of_room w hid hroom, hsh, Display.withCells]

/-- A text that the line has room for is written from the address counter on, and nothing but the counter changes besides (R39). -/
theorem foldl_takeData (w : DisplayDraws) (str : List Byte) {d : Display} (hd : d.inStep = true)
    (hroom : d.ac.toNat % 64 + str.length ≤ 39) :
    str.foldl (fun d c => takeData w c d) d =
      d.withCells (overwrite d.cells d.ac.toNat str) (d.ac + BitVec.ofNat 7 str.length) := by
  induction str generalizing d with
  | nil => rw [overwrite_nil, List.length_nil, BitVec.add_zero]; rfl
  | cons c cs ih =>
    obtain ⟨-, -, -, -, hlength⟩ := Display.inStep_iff.1 hd
    rw [List.length_cons] at hroom
    have hnext : (d.ac + 1).toNat = d.ac.toNat + 1 := by
      rw [BitVec.toNat_add]
      exact Nat.mod_eq_of_lt (by change d.ac.toNat + 1 < 128; omega)
    have hcount : d.ac + 1 + BitVec.ofNat 7 cs.length = d.ac + BitVec.ofNat 7 (cs.length + 1) := by
      rw [BitVec.add_assoc, BitVec.ofNat_add, BitVec.add_comm (BitVec.ofNat 7 cs.length)]
      rfl
    rw [List.foldl_cons, takeData_of_room w c hd (by omega),
      ih (Display.withCells_inStep _ hd (List.length_set ..)) (by rw [Display.withCells_ac, hnext]; omega),
      Display.withCells_withCells, Display.withCells_cells, Display.withCells_ac, hnext, overwrite_cons (by omega), hcount,
      List.length_cons]

/-- The command byte of a line's first cell moves the address there (R39, R45). -/
theorem takeCommand_setAddress (w : DisplayDraws) {l : Nat} (hl : l ≤ 1) (d : Display) :
    takeCommand w (setAddressByte Config.default 0 l) d = d.withCells d.cells (BitVec.ofNat 7 (0x40 * l)) := by
  interval_cases l <;> rfl

/-- What a line shown whole makes of a display in step: the padded text stands over the line's first cells (R39, R63). -/
theorem Display.observeSignals_line (w : DisplayDraws) {x : BusLines × Display} (hx : x.2.inStep = true) {l : Nat} (hl : l ≤ 1)
    {str : List Byte} (hstr : str.length ≤ 16) :
    ∃ a, (observeSignals w (lineSignals Config.default l str) x).2 =
      x.2.withCells (overwrite x.2.cells (0x40 * l) (padLine Config.default str)) a := by
  obtain ⟨hbetween, -⟩ := Display.inStep_iff.1 hx
  have hac : (BitVec.ofNat 7 (0x40 * l)).toNat = 0x40 * l := Nat.mod_eq_of_lt (by omega)
  have hpad : (padLine Config.default str).length = 16 := length_padLine ⟨rfl, rfl⟩ hstr
  have haddress : (observeSignals w (byteSignals Config.default .command (setAddressByte Config.default 0 l)) x).2
      = x.2.withCells x.2.cells (BitVec.ofNat 7 (0x40 * l)) := by
    rw [hbetween.observeSignals_byte]
    exact takeCommand_setAddress w hl x.2
  have hready := Display.withCells_inStep (BitVec.ofNat 7 (0x40 * l)) hx rfl
  rw [← haddress] at hready
  rw [lineSignals, writeAtSignals, gotoSignals, List.append_assoc, List.singleton_append, observeSignals_append,
    observeSignals_wait, Display.betweenBytes.observeSignals_text w _ _ (Display.inStep_iff.1 hready).1,
    foldl_takeData w _ hready (by rw [haddress, Display.withCells_ac, hac, hpad]; omega), haddress, Display.withCells_withCells,
    Display.withCells_cells, Display.withCells_ac, hac]
  exact ⟨_, rfl⟩

/-- A text of 16 characters over the first cells of a line is what the line shows, and the other line shows what it did. -/
theorem Display.line_overwrite {d : Display} {l : Nat} {str : List Byte} (hlength : d.cells.length = 128) (hstr : str.length = 16)
    (hl : l ≤ 1) (a : BitVec 7) :
    (d.withCells (overwrite d.cells (0x40 * l) str) a).line l = str ∧
      (d.withCells (overwrite d.cells (0x40 * l) str) a).line (1 - l) = d.line (1 - l) := by
  have hsame {b : Nat} (hb : b ≤ 128) : ((overwrite d.cells b str).drop b).take 16 = str :=
    hstr ▸ take_drop_overwrite_same (hlength ▸ hb)
  interval_cases l
  · have hother : (overwrite d.cells 0 str).drop 0x40 = d.cells.drop 0x40 := drop_overwrite_after (by omega) (by omega)
    exact ⟨hsame (b := 0) (by omega), congrArg (List.take 16) hother⟩
  · exact ⟨hsame (b := 0x40) (by omega), take_drop_overwrite_before (b := 0) (n := 16) (by omega) (by omega)⟩

/-- The events of RENDER on one of the two lines are the line's signals, whenever they took place. -/
theorem render_events {l : Nat} {str : List Byte} {s t : State} {evs : List Event} (hgeometry : standardGeometry s.cfg)
    (hstr : str.length ≤ 16) (hl : l ≤ 1) (h : exec (.render l str) s = .next t) (htrace : t.trace = s.trace ++ evs) :
    evs.map Event.signal = lineSignals s.cfg l str := by
  obtain ⟨u, hu, -, ⟨evs', htrace', hsignals, -⟩, -⟩ := exec_render_of_line hgeometry hstr hl
  cases hu.symm.trans h
  rw [List.append_cancel_left (htrace.symm.trans htrace'), hsignals]

/-- Settles O60: the display takes the set-address command of the line's first cell and then the padded text, for which the line
has room. -/
theorem renderShowsItsTextAndNothingElse : Obligations.RenderShowsItsTextAndNothingElse := by
  intro w x l str s t evs hcfg hx _ hstr hl h htrace
  have hgeometry : standardGeometry Config.default := ⟨rfl, rfl⟩
  have hsignals : evs.map Event.signal = lineSignals Config.default l str :=
    hcfg ▸ render_events (hcfg ▸ hgeometry) hstr hl h htrace
  have hpad : (padLine Config.default str).length = 16 := length_padLine hgeometry hstr
  obtain ⟨-, -, -, -, hlength⟩ := Display.inStep_iff.1 hx
  obtain ⟨a, hdisplay⟩ := Display.observeSignals_line w hx hl hstr
  obtain ⟨hline, hother⟩ := Display.line_overwrite hlength hpad hl a
  rw [observe_eq_observeSignals, hsignals, hdisplay]
  refine ⟨?_, Display.withCells_inStep a hx (length_overwrite (by omega)), rfl, hother⟩
  rw [Display.shows, hline, padLine_standard hgeometry]

end Sys2Proof.Machine
end

section
/-!
PROOFS of the obligations of spec/42_quantizer.md: the zone of a sample by the band table, in any order of disjoint bands (R65, R66,
R68), the samples of each zone under the default bands (R65), and the instruction that writes `ZONE` (R66, R17).
-/

namespace Sys2Proof.Machine

/-! ## The zone of a sample -/

theorem bandsApart_comm (a b : Band) : bandsApart a b = bandsApart b a := by
  rw [bandsApart, bandsApart, min_comm, max_comm]

/-- The order of its bands makes no table disjoint or not. -/
theorem bandsDisjoint_of_perm {bands bands' : List Band} (hperm : bands.Perm bands') (hd : bandsDisjoint bands = true) :
    bandsDisjoint bands' = true :=
  bandsDisjoint_iff_pairwise.2 <|
    (hperm.pairwise_iff fun hab => (bandsApart_comm _ _).trans hab).1 (bandsDisjoint_iff_pairwise.1 hd)

/-- At most one band of a disjoint table holds a sample. -/
theorem eq_of_bandHolds {bands : List Band} {a b : Band} {v : Nat} (hd : bandsDisjoint bands = true) (ha : a ∈ bands) (hb : b ∈ bands)
    (hva : bandHolds a v = true) (hvb : bandHolds b v = true) : a = b := by
  obtain ⟨i, hi⟩ := List.getElem?_of_mem ha
  obtain ⟨j, hj⟩ := List.getElem?_of_mem hb
  rcases lt_trichotomy i j with hij | rfl | hij
  · exact absurd hd (not_bandsDisjoint_of_bandHolds hij hi hj hva hvb)
  · exact Option.some.inj (hi.symm.trans hj)
  · exact absurd hd (not_bandsDisjoint_of_bandHolds hij hj hi hvb hva)

/-- With disjoint bands the zone of a sample is that of the band that holds it, wherever it stands in the table. -/
theorem classifyWith_of_bandHolds {bands : List Band} {b : Band} {v : Nat} (hd : bandsDisjoint bands = true) (hb : b ∈ bands)
    (hv : bandHolds b v = true) : classifyWith bands v = b.zone := by
  cases hfind : bands.find? (bandHolds · v) with
  | none => exact absurd hv (List.find?_eq_none.1 hfind b hb)
  | some a =>
    have hva : bandHolds a v = true := List.find?_some (p := (bandHolds · v)) hfind
    rw [classifyWith, hfind, eq_of_bandHolds hd hb (List.mem_of_find?_eq_some hfind) hv hva]

theorem classifyWith_of_no_bandHolds {bands : List Band} {v : Nat} (h : ∀ b ∈ bands, ¬ bandHolds b v = true) :
    classifyWith bands v = .idle := by
  rw [classifyWith, List.find?_eq_none.2 h]

theorem classifyWith_perm {bands bands' : List Band} (hd : bandsDisjoint bands = true) (hperm : bands.Perm bands') (v : Nat) :
    classifyWith bands v = classifyWith bands' v := by
  by_cases h : ∃ b ∈ bands, bandHolds b v = true
  · obtain ⟨b, hb, hv⟩ := h
    rw [classifyWith_of_bandHolds hd hb hv, classifyWith_of_bandHolds (bandsDisjoint_of_perm hperm hd) (hperm.mem_iff.1 hb) hv]
  · have hnone : ∀ b ∈ bands, ¬ bandHolds b v = true := fun b hb hv => h ⟨b, hb, hv⟩
    rw [classifyWith_of_no_bandHolds hnone, classifyWith_of_no_bandHolds fun b hb => hnone b (hperm.mem_iff.2 hb)]

/-- The bands are tried one after the other. -/
theorem classifyWith_cons (b : Band) (bs : List Band) (v : Nat) :
    classifyWith (b :: bs) v = if bandLow b ≤ v ∧ v < b.below then b.zone else classifyWith bs v := by
  by_cases h : bandHolds b v = true
  · rw [if_pos (bandHolds_iff.1 h), classifyWith, List.find?_cons_of_pos (p := (bandHolds · v)) h]
  · rw [if_neg (mt bandHolds_iff.2 h), classifyWith, List.find?_cons_of_neg (p := (bandHolds · v)) h, classifyWith]

theorem classifyWith_defaultBands (v : Nat) :
    classifyWith Config.defaultBands v = if 700 < v ∧ v < 800 then .increment else if 600 < v ∧ v < 700 then .decrement
      else if 500 < v ∧ v < 600 then .reset else if v < 10 then .expose else .idle := by
  simp only [Config.defaultBands, classifyWith_cons, bandLow, Nat.zero_le, true_and, Nat.succ_le_iff]
  rfl

theorem classify_of_calibrated (cfg : Config) {v : Nat} (h : v ≤ calibratedMax) : classify cfg v = classifyWith cfg.bands v :=
  if_neg h.not_gt

theorem classify_of_above (cfg : Config) {v : Nat} (h : calibratedMax < v) : classify cfg v = .idle := if_pos h

/-- The default bands hold no sample above the calibrated range, so the pseudocode's cases need no test for it. -/
theorem classify_eq_cases {cfg : Config} (hcfg : cfg.bands = Config.defaultBands) (v : Nat) :
    classify cfg v = if 700 < v ∧ v < 800 then .increment else if 600 < v ∧ v < 700 then .decrement
      else if 500 < v ∧ v < 600 then .reset else if v < 10 then .expose else .idle := by
  rcases le_or_gt v calibratedMax with hv | hv
  · rw [classify_of_calibrated cfg hv, hcfg, classifyWith_defaultBands]
  · have habove : 1023 < v := hv
    rw [classify_of_above cfg hv, if_neg (by omega), if_neg (by omega), if_neg (by omega), if_neg (by omega)]

/-- Settles O28: the five cases by the table's four bands in turn, and any order by the one band that can hold a sample. -/
theorem classifyFollowsTheBands : Obligations.ClassifyFollowsTheBands :=
  ⟨fun _ v hcfg => classify_eq_cases hcfg v, fun _ _ v hd hperm => classifyWith_perm hd hperm v,
    fun cfg _ hv => classify_of_calibrated cfg hv, fun cfg _ hv => classify_of_above cfg hv, zoneOfCode_zoneCode⟩

/-! ## The samples of each zone -/

/-- The samples of each zone, as the table of R65 lists them. -/
def defaultSamples : Zone → Finset Nat
  | .increment => .Icc 701 799
  | .decrement => .Icc 601 699
  | .reset     => .Icc 501 599
  | .expose    => .Icc 0 9
  | .idle      => .Icc 10 500 ∪ ({600, 700} ∪ .Icc 800 1023)

theorem classify_default_eq_iff {v : Nat} (hv : v < 1024) (z : Zone) : classify Config.default v = z ↔ v ∈ defaultSamples z := by
  rw [classify_eq_cases (cfg := Config.default) rfl]
  cases z
  all_goals
    simp only [defaultSamples, Finset.mem_Icc, Finset.mem_union, Finset.mem_insert, Finset.mem_singleton]
    split_ifs <;> simp only [true_iff, false_iff] <;> omega

theorem defaultSamples_lt {z : Zone} {v : Nat} (h : v ∈ defaultSamples z) : v < 1024 := by
  cases z <;> simp only [defaultSamples, Finset.mem_Icc, Finset.mem_union, Finset.mem_insert, Finset.mem_singleton] at h <;> omega

theorem card_defaultSamples_idle : (defaultSamples .idle).card = 717 := by
  have hinner : Disjoint ({600, 700} : Finset Nat) (.Icc 800 1023) := by
    simp [Finset.disjoint_left]
  have houter : Disjoint (Finset.Icc 10 500) ({600, 700} ∪ .Icc 800 1023) := by
    simp only [Finset.disjoint_left, Finset.mem_Icc, Finset.mem_union, Finset.mem_insert, Finset.mem_singleton]
    omega
  rw [defaultSamples, Finset.card_union_of_disjoint houter, Finset.card_union_of_disjoint hinner, Nat.card_Icc, Nat.card_Icc]
  rfl

theorem length_filter_classify_default (z : Zone) :
    ((List.range 1024).filter (fun v => classify Config.default v = z)).length = (defaultSamples z).card := by
  have hset : (Finset.range 1024).filter (fun v => classify Config.default v = z) = defaultSamples z := by
    ext v
    rw [Finset.mem_filter, Finset.mem_range]
    exact ⟨fun ⟨hv, hz⟩ => (classify_default_eq_iff hv z).1 hz,
      fun h => ⟨defaultSamples_lt h, (classify_default_eq_iff (defaultSamples_lt h) z).2 h⟩⟩
  rw [← hset]
  rfl

/-- Settles O29: the samples of each zone are the intervals of R65. -/
theorem defaultBandCounts : Obligations.DefaultBandCounts := by
  unfold Obligations.DefaultBandCounts
  simp only [length_filter_classify_default, List.map_cons, List.map_nil, card_defaultSamples_idle]
  simp only [defaultSamples, Nat.card_Icc]

/-! ## CLASSIFY -/

theorem classifyPrim_of_sample {s : State} {v : Nat} (h : s.sample = some v) :
    classifyPrim s = .next (s.setZone (zoneCode (classify s.cfg v))).passTime := by rw [classifyPrim, h]

theorem classifyPrim_of_no_sample {s : State} (h : s.sample = none) : classifyPrim s = .fault .sampleUnwritten := by
  rw [classifyPrim, h]

/-- Settles O30: the zone written, and what the one action leaves alone. -/
theorem classifyWritesTheZone : Obligations.ClassifyWritesTheZone := by
  refine ⟨fun s v hv => ?_, fun s hs => classifyPrim_of_no_sample hs⟩
  have h : perform .classify s = .next (s.setZone (zoneCode (classify s.cfg v))).passTime := classifyPrim_of_sample hv
  obtain ⟨hsurroundings, hposition, -⟩ := perform_frame h
  exact ⟨_, h, rfl, perform_registerWrite_trace (.inl rfl) h, perform_takes h, hsurroundings, hposition,
    perform_sameBus h (by simp), perform_cur h (by simp), perform_relay h (by simp), perform_et h (by simp),
    perform_tick h (by simp), perform_sample h (by simp), rfl⟩

end Sys2Proof.Machine
end

section
/-!
PROOFS of the obligations of spec/43_exposure_controller.md: the five handlers and the banner as their lists of actions, with their
events, times and registers (R71 to R78), and one iteration of the control loop (R69).
-/

namespace Sys2Proof.Machine

/-! ## Texts at a position and whole lines -/

section
variable {cfg : Config} {c l : Nat}

theorem writeAtActions_signals (hin : positionInRange cfg c l = true) (str : List Byte) :
    (writeAtActions cfg c l str).flatMap Action.signals = writeAtSignals cfg c l str := by
  rw [writeAtActions, List.flatMap_append, gotoActions_signals hin, putStringActions_signals, writeAtSignals]

theorem writeAtActions_waits (hin : positionInRange cfg c l = true) (str : List Byte) :
    ((writeAtActions cfg c l str).map Action.waits).sum = writeAtTime cfg str.length := by
  rw [writeAtActions, List.map_append, List.sum_append, gotoActions_waits hin, putStringActions_waits, writeAtTime]

theorem renderActions_signals (hgeometry : standardGeometry cfg) (hl : l ≤ 1) (str : List Byte) :
    (renderActions cfg l str).flatMap Action.signals = lineSignals cfg l str :=
  writeAtActions_signals ((positionInRange_standard hgeometry).2 hl) _

theorem renderActions_waits (hgeometry : standardGeometry cfg) (hl : l ≤ 1) {str : List Byte} (hstr : str.length ≤ 16) :
    ((renderActions cfg l str).map Action.waits).sum = lineTime cfg := by
  rw [renderActions, writeAtActions_waits ((positionInRange_standard hgeometry).2 hl), length_padLine hgeometry hstr, lineTime]

variable {s t : State} {str : List Byte}

theorem runActions_writeAt_cell (hin : positionInRange cfg c l = true) (h : runActions (writeAtActions cfg c l str) s = .next t) :
    t.curCol.toNat = c ∧ t.curLine.toNat = l := by
  obtain ⟨u, hgoto, hcol, hline⟩ := runActions_writeAt_cur h
  obtain ⟨hucol, huline, -⟩ := runActions_goto_cur hin hgoto
  exact ⟨by rw [hcol, hucol], by rw [hline, huline]⟩

/-- A text at the start of a line leaves the line in `CUR`, whatever its length. -/
theorem runActions_writeAt_lineStart {line : Bit} (hgeometry : standardGeometry cfg)
    (h : runActions (writeAtActions cfg 0 line.toNat str) s = .next t) : t.curCol = 0 ∧ t.curLine = line := by
  have hline : line.toNat ≤ 1 := Nat.le_of_lt_succ line.isLt
  obtain ⟨hcol, hline⟩ := runActions_writeAt_cell ((positionInRange_standard hgeometry).2 hline) h
  exact ⟨BitVec.eq_of_toNat_eq hcol, BitVec.eq_of_toNat_eq hline⟩

theorem Nibbled.sameBeyondDisplay {as : List Action} (h : Nibbled cfg Action.isDriver as) (hrun : runActions as s = .next t) :
    SameBeyondDisplay s t := by
  obtain ⟨u, hu, -, -, hsame⟩ := h.runActions_driver s
  cases hu.symm.trans hrun
  exact hsame

end

/-! ## The banner -/

theorem Performs.writeAt {cfg : Config} {is : List Instr} {bs : List Action} (c l : Nat) (str : List Byte) (h : Performs cfg is bs) :
    Performs cfg (.writeAt c l str :: is) (writeAtActions cfg c l str ++ bs) :=
  .cons (by rintro s rfl; rfl) h

theorem performs_banner (cfg : Config) :
    Performs cfg [.writeAt 0 0 textEnlarger, .writeAt 0 1 textTimerV1, .wait cfg.tBanner] (bannerActions cfg) := by
  have h := (((Performs.nil cfg).wait cfg.tBanner).writeAt 0 1 textTimerV1).writeAt 0 0 textEnlarger
  rwa [← List.append_assoc] at h

section
variable {cfg : Config} (hgeometry : standardGeometry cfg)
include hgeometry

theorem bannerActions_signals : (bannerActions cfg).flatMap Action.signals = bannerSignals cfg := by
  have hline {l : Nat} (hl : l ≤ 1) := (positionInRange_standard hgeometry).2 hl
  rw [bannerActions, List.flatMap_append, List.flatMap_append, writeAtActions_signals (hline (Nat.zero_le 1)),
    writeAtActions_signals (hline le_rfl)]
  rfl

theorem bannerActions_waits : ((bannerActions cfg).map Action.waits).sum = bannerTime cfg := by
  have hline {l : Nat} (hl : l ≤ 1) := (positionInRange_standard hgeometry).2 hl
  have henlarger : textEnlarger.length = 8 := rfl
  have htimer : textTimerV1.length = 8 := rfl
  simp only [bannerActions, List.map_append, List.sum_append, writeAtActions_waits (hline (Nat.zero_le 1)),
    writeAtActions_waits (hline le_rfl), henlarger, htimer, List.map_cons, List.map_nil, List.sum_cons, List.sum_nil, Action.waits,
    bannerTime]
  omega

theorem runActions_banner_cur {s t : State} (h : runActions (bannerActions cfg) s = .next t) : t.curCol = 0 ∧ t.curLine = 1 := by
  rw [bannerActions, List.append_assoc, runActions_append] at h
  obtain ⟨u, -, hsecond⟩ := andThen_eq_next.1 h
  rw [runActions_append] at hsecond
  obtain ⟨v, htext, hwait⟩ := andThen_eq_next.1 hsecond
  obtain ⟨hcol, hline⟩ := runActions_cur (by simp) hwait
  rw [hcol, hline]
  exact runActions_writeAt_lineStart (line := 1) hgeometry htext

end

/-- Settles O36: the banner's list is that of its three operations, and its second text leaves the cursor. -/
theorem bannerShowsItsTwoLines : Obligations.BannerShowsItsTwoLines := by
  intro s hgeometry
  obtain ⟨t, ht, hevents, htime, hsame⟩ := (bannerActions_nibbled s.cfg).runActions_driver s
  obtain ⟨hcol, hline⟩ := runActions_banner_cur hgeometry ht
  rw [bannerActions_signals hgeometry] at hevents
  rw [bannerActions_waits hgeometry] at htime
  exact ⟨(performs_banner s.cfg s rfl).symm, t, ht, hevents, hcol, hline, htime, hsame⟩

/-! ## What every handler keeps -/

theorem runActions_sameQuantizer {as : List Action} {s t : State} (htotal : ∀ a ∈ as, a.total = true)
    (h : runActions as s = .next t) : sameQuantizer s t := by
  have keeps (a : Action) (ha : a ∈ as) (u v : State) (hu : perform a u = .next v) : sameQuantizer u v :=
    perform_quantizer hu (htotal a ha)
  exact ⟨runActions_keeps State.sample (fun a ha u v hu => (keeps a ha u v hu).1) h,
    runActions_keeps State.zone (fun a ha u v hu => (keeps a ha u v hu).2.1) h,
    runActions_keeps (fun u => u.env.samples) (fun a ha u v hu => (keeps a ha u v hu).2.2) h⟩

/-- A handler that has its list runs to its end: its events are the list's signals, its time the list's waits, and it leaves alone
the surroundings, the position and the quantizer's registers. -/
theorem exec_handlerOf_of_list {z : Zone} {s : State} {as : List Action} (h : handlerActions s.cfg s.et z = .ok as) :
    ∃ t, exec (handlerOf z) s = .next t ∧ runActions as s = .next t ∧ appends s t (as.flatMap Action.signals) ∧
      takes s t (as.map Action.waits).sum ∧ SameSurroundings s t ∧ samePosition s t ∧ sameQuantizer s t := by
  have htotal : ∀ a ∈ as, a.total = true := phaseActions_total (q := .handle z 0) (x := none) (by simp) h
  obtain ⟨t, ht⟩ := runActions_total (List.all_eq_true.2 htotal) s
  have hsample : ∀ a ∈ as, a ≠ .sample := by
    rintro a ha rfl
    exact absurd (htotal _ ha) (by decide)
  obtain ⟨hsurroundings, hposition, -⟩ := runActions_frame ht
  exact ⟨t, by rw [exec_handlerOf, h, runExpansion_ok, ht], ht, runActions_appends ht hsample, runActions_takes ht, hsurroundings,
    hposition, runActions_sameQuantizer htotal ht⟩

/-- Where a handler answers, it has performed its list. -/
theorem exec_handlerOf_next {z : Zone} {s t : State} (h : exec (handlerOf z) s = .next t) :
    ∃ as, handlerActions s.cfg s.et z = .ok as ∧ runActions as s = .next t := by
  rw [exec_handlerOf] at h
  cases hlist : handlerActions s.cfg s.et z with rw [hlist] at h
  | ok as => exact ⟨as, rfl, h⟩
  | error x => cases h

/-! ## Seconds shown on a line -/

theorem length_seconds_le (v : Nat) {tail : List Byte} (htail : tail.length ≤ 14) : (seconds v tail).length ≤ 16 := by
  have hdec : ((decText v).getD []).length ≤ 2 := by
    rw [decText]
    split_ifs <;> simp
  rw [seconds, List.length_append]
  omega

/-- `dec` covers the numbers up to 99 and no others (R61). -/
theorem renderSeconds_eq_ok_iff {cfg : Config} {l v : Nat} {tail : List Byte} {as : List Action} :
    renderSeconds cfg l v tail = .ok as ↔ v ≤ 99 ∧ as = renderActions cfg l (seconds v tail) := by
  rcases Nat.lt_or_ge 99 v with hv | hv
  · simp [renderSeconds_of_above cfg l tail hv, hv]
  · have hdec : ∃ ds, decText v = some ds := by
      rcases Nat.lt_or_ge v 10 with hdigit | hdigits
      · exact ⟨_, decText_of_digit hdigit⟩
      · exact ⟨_, decText_of_two_digits hdigits hv⟩
    obtain ⟨ds, hds⟩ := hdec
    simp [renderSeconds, secondsText, seconds, hds, hv, eq_comm]

/-! ## Adjust-Up and Adjust-Down -/

/-- The list of both adjusting handlers (`incrementActions_eq_ok_iff`, `decrementActions_eq_ok_iff`). -/
def adjustList (cfg : Config) (may : Bool) (v : Seconds) : List Action :=
  (if may then [.setEt v] else []) ++ (renderActions cfg 0 (seconds v.toNat textSecExposure) ++ [.wait cfg.tAdjust])

theorem incrementActions_eq_ok_iff {cfg : Config} {et : Seconds} {as : List Action} :
    incrementActions cfg et = .ok as ↔
      (incremented cfg et).toNat ≤ 99 ∧ as = adjustList cfg (mayIncrement cfg et) (incremented cfg et) := by
  simp [incrementActions, Expansion.append_eq_ok, renderSeconds_eq_ok_iff, adjustList]

theorem decrementActions_eq_ok_iff {cfg : Config} {et : Seconds} {as : List Action} :
    decrementActions cfg et = .ok as ↔
      (decremented cfg et).toNat ≤ 99 ∧ as = adjustList cfg (mayDecrement cfg et) (decremented cfg et) := by
  simp [decrementActions, Expansion.append_eq_ok, renderSeconds_eq_ok_iff, adjustList]

theorem adjustList_signals {cfg : Config} (hgeometry : standardGeometry cfg) (may : Bool) (v : Seconds) :
    (adjustList cfg may v).flatMap Action.signals = lineSignals cfg 0 (seconds v.toNat textSecExposure) ++ [.wait cfg.tAdjust] := by
  have hshow := renderActions_signals hgeometry (Nat.zero_le 1) (seconds v.toNat textSecExposure)
  cases may <;> simp [adjustList, hshow, Action.signals]

theorem adjustList_waits {cfg : Config} (hgeometry : standardGeometry cfg) (may : Bool) (v : Seconds) :
    ((adjustList cfg may v).map Action.waits).sum = lineTime cfg + cfg.tAdjust := by
  have hshow := renderActions_waits hgeometry (Nat.zero_le 1) (length_seconds_le v.toNat (tail := textSecExposure) (by decide))
  cases may <;> simp [adjustList, hshow, Action.waits]

/-- The adjusting handlers write `ET` or do not; what follows is the display driver's. -/
theorem runActions_adjust {cfg : Config} {may : Bool} {v : Seconds} {s t : State}
    (h : runActions (adjustList cfg may v) s = .next t) :
    t.et = (if may then v else s.et) ∧ t.relay = s.relay ∧ t.tick = s.tick := by
  have hdriver : Nibbled cfg Action.isDriver
      (renderActions cfg 0 (seconds v.toNat textSecExposure) ++ [.wait cfg.tAdjust]) :=
    (renderActions_nibbled cfg 0 _).append (.singleton trivial)
  cases may with
  | true =>
    have hsame : SameBeyondDisplay (s.setEt v).passTime t := hdriver.sameBeyondDisplay h
    exact ⟨hsame.et, hsame.relay, hsame.tick⟩
  | false =>
    have hsame : SameBeyondDisplay s t := hdriver.sameBeyondDisplay h
    exact ⟨hsame.et, hsame.relay, hsame.tick⟩

theorem runActions_adjust_cur {cfg : Config} {may : Bool} {v : Seconds} {s t : State} (hgeometry : standardGeometry cfg)
    (h : runActions (adjustList cfg may v) s = .next t) : t.curCol = 0 ∧ t.curLine = 0 := by
  rw [adjustList, runActions_append] at h
  obtain ⟨u, -, hshow⟩ := andThen_eq_next.1 h
  rw [runActions_append] at hshow
  obtain ⟨w, hrender, hwait⟩ := andThen_eq_next.1 hshow
  obtain ⟨hcol, hline⟩ := runActions_cur (by simp) hwait
  rw [hcol, hline]
  exact runActions_writeAt_lineStart (line := 0) hgeometry hrender

/-- A handler with the adjusting list shows the value it leaves in `ET` and waits (R71, R72). -/
theorem exec_handlerOf_of_adjustList {z : Zone} {may : Bool} {v : Seconds} {s : State} (hgeometry : standardGeometry s.cfg)
    (hlist : handlerActions s.cfg s.et z = .ok (adjustList s.cfg may v)) (hkept : (if may then v else s.et) = v) :
    ∃ t, exec (handlerOf z) s = .next t ∧ t.et = v ∧
      appends s t (lineSignals s.cfg 0 (seconds t.et.toNat textSecExposure) ++ [.wait s.cfg.tAdjust]) ∧
      t.curCol = 0 ∧ t.curLine = 0 ∧ takes s t (lineTime s.cfg + s.cfg.tAdjust) ∧
      SameSurroundings s t ∧ samePosition s t ∧ sameQuantizer s t ∧ t.relay = s.relay ∧ t.tick = s.tick := by
  obtain ⟨t, hexec, hrun, hevents, htime, hsurroundings, hposition, hquantizer⟩ := exec_handlerOf_of_list hlist
  obtain ⟨het, hrelay, htick⟩ := runActions_adjust hrun
  obtain ⟨hcol, hline⟩ := runActions_adjust_cur hgeometry hrun
  rw [hkept] at het
  rw [adjustList_signals hgeometry, ← het] at hevents
  rw [adjustList_waits hgeometry] at htime
  exact ⟨t, hexec, het, hevents, hcol, hline, htime, hsurroundings, hposition, hquantizer, hrelay, htick⟩

theorem incremented_kept (cfg : Config) (et : Seconds) :
    (if mayIncrement cfg et then incremented cfg et else et) = incremented cfg et := by
  unfold incremented
  split <;> rfl

theorem decremented_kept (cfg : Config) (et : Seconds) :
    (if mayDecrement cfg et then decremented cfg et else et) = decremented cfg et := by
  unfold decremented
  split <;> rfl

/-- Up to a top below 127 one more does not wrap round. -/
theorem incremented_toNat {cfg : Config} {et : Seconds} (het : et ≤ cfg.etMax) (hmax : cfg.etMax.toNat ≤ 99) :
    (incremented cfg et).toNat = min (et.toNat + 1) cfg.etMax.toNat := by
  unfold incremented mayIncrement
  split
  · next h => have := of_decide_eq_true h; bv_omega
  · next h => have := of_decide_eq_false (Bool.not_eq_true _ ▸ h); bv_omega

/-- From a bottom that may be 0 one less does not wrap round. -/
theorem decremented_toNat {cfg : Config} {et : Seconds} (het : cfg.etMin ≤ et) :
    (decremented cfg et).toNat = max (et.toNat - 1) cfg.etMin.toNat := by
  unfold decremented mayDecrement
  split
  · next h => have := of_decide_eq_true h; bv_omega
  · next h => have := of_decide_eq_false (Bool.not_eq_true _ ▸ h); bv_omega

/-- Settles O33: the adjusting list with the value one up. -/
theorem incrementAddsOneSecondClamped : Obligations.IncrementAddsOneSecondClamped := by
  intro s hgeometry het hmax
  have hvalue := incremented_toNat het hmax
  have hlist : handlerActions s.cfg s.et .increment = .ok _ := incrementActions_eq_ok_iff.2 ⟨by omega, rfl⟩
  obtain ⟨t, hexec, ht, hrest⟩ := exec_handlerOf_of_adjustList hgeometry hlist (incremented_kept s.cfg s.et)
  exact ⟨t, hexec, by rw [ht, hvalue], hrest⟩

/-- Settles O34: the adjusting list with the value one down. -/
theorem decrementTakesOneSecondClamped : Obligations.DecrementTakesOneSecondClamped := by
  intro s hgeometry hmin het
  have hvalue := decremented_toNat hmin
  have hle : s.cfg.etMin.toNat ≤ s.et.toNat := hmin
  have hlist : handlerActions s.cfg s.et .decrement = .ok _ := decrementActions_eq_ok_iff.2 ⟨by omega, rfl⟩
  obtain ⟨t, hexec, ht, hrest⟩ := exec_handlerOf_of_adjustList hgeometry hlist (decremented_kept s.cfg s.et)
  exact ⟨t, hexec, by rw [ht, hvalue], hrest⟩

/-! ## Resetting -/

section
variable {cfg : Config} (hgeometry : standardGeometry cfg)
include hgeometry

theorem resetActions_signals : (resetActions cfg).flatMap Action.signals =
    commandSignals cfg [cfg.cmdClear] ++ writeAtSignals cfg 0 0 textReset ++ [.wait cfg.tResetMsg] ++ bannerSignals cfg
      ++ commandSignals cfg [cfg.cmdClear] := by
  have hshow := writeAtActions_signals ((positionInRange_standard hgeometry).2 (Nat.zero_le 1)) textReset
  simp [resetActions, putCommandActions, hshow, bannerActions_signals hgeometry, commandSignals, Action.signals]

theorem resetActions_waits : ((resetActions cfg).map Action.waits).sum =
    byteTime cfg + writeAtTime cfg 5 + cfg.tResetMsg + bannerTime cfg + byteTime cfg := by
  have hshow : ((writeAtActions cfg 0 0 textReset).map Action.waits).sum = writeAtTime cfg 5 :=
    writeAtActions_waits ((positionInRange_standard hgeometry).2 (Nat.zero_le 1)) textReset
  simp only [resetActions, putCommandActions, List.map_append, List.sum_append, sendByte_waits, hshow, bannerActions_waits hgeometry,
    List.map_cons, List.map_nil, List.sum_cons, List.sum_nil, Action.waits]
  omega

theorem runActions_reset_cur {s t : State} (h : runActions (resetActions cfg) s = .next t) : t.curCol = 0 ∧ t.curLine = 1 := by
  rw [resetActions, runActions_append] at h
  obtain ⟨u, hfront, hclear⟩ := andThen_eq_next.1 h
  rw [runActions_append] at hfront
  obtain ⟨w, -, hbanner⟩ := andThen_eq_next.1 hfront
  obtain ⟨hcol, hline⟩ := runActions_cur (sendByte_noCur cfg .command cfg.cmdClear) hclear
  rw [hcol, hline]
  exact runActions_banner_cur hgeometry hbanner

end

/-- After the one write of `ET` come the banner and a clear. -/
theorem runActions_reset_et {cfg : Config} {s t : State} (h : runActions (resetActions cfg) s = .next t) : t.et = cfg.etReset := by
  rw [resetActions, List.append_assoc, runActions_append] at h
  obtain ⟨u, hfront, hback⟩ := andThen_eq_next.1 h
  rw [runActions_append] at hfront
  obtain ⟨w, -, ⟨⟩⟩ := andThen_eq_next.1 hfront
  exact (((bannerActions_nibbled cfg).append (putCommandActions_nibbled cfg _)).sameBeyondDisplay hback).et

/-- Settles O35: the handler's own list, whose one write of a register beyond the display is that of `ET`. -/
theorem resetHandlerRestoresOneSecond : Obligations.ResetHandlerRestoresOneSecond := by
  intro s hgeometry
  obtain ⟨t, hexec, hrun, hevents, htime, hsurroundings, hposition, hquantizer⟩ :=
    exec_handlerOf_of_list (s := s) (z := .reset) rfl
  obtain ⟨hcol, hline⟩ := runActions_reset_cur hgeometry hrun
  rw [resetActions_signals hgeometry] at hevents
  rw [resetActions_waits hgeometry] at htime
  exact ⟨t, hexec, runActions_reset_et hrun, hevents, hcol, hline, htime, hsurroundings, hposition, hquantizer,
    exec_relay_of_not_writer hexec (by simp [handlerOf]) (by simp [handlerOf]), exec_tick_of_not_writer hexec (by simp [handlerOf])⟩

/-! ## Idle -/

/-- Settles O39: one drive of the relay. -/
theorem idleDrivesTheRelayOff : Obligations.IdleDrivesTheRelayOff := by
  intro s
  obtain ⟨t, ht, htrace, -⟩ := drive_step .relay 0 s
  obtain ⟨hsurroundings, hposition, -⟩ := perform_frame ht
  have hbus : sameBus s t := perform_sameBus ht fun l v hl he => hl (by cases he; rfl)
  exact ⟨t, (exec_hIdle s).trans ht, eq_of_levelOfBit_eq (perform_drive_lineLevel_same (l := .relay) (v := 0) rfl ht), htrace,
    perform_takes ht, hsurroundings, hposition, perform_quantizer ht rfl, hbus, perform_cur ht (by simp), perform_et ht (by simp),
    perform_tick ht (by simp)⟩

/-! ## Exposing -/

/-- One iteration of the countdown as a list of actions (`tickActions_eq_ok_iff`). -/
def tickList (cfg : Config) (k : Nat) : List Action :=
  .wait cfg.tTick :: .setTick (BitVec.ofNat 7 k) :: renderActions cfg 1 (seconds k textSecLastExp)

/-- The countdown as a list of actions (`countdownActions_eq_ok`). -/
def countdownList (cfg : Config) (n : Nat) : List Action := (List.range n).flatMap fun k => tickList cfg (k + 1)

/-- What the Expose handler shows before the relay comes on. -/
def exposePrelude (cfg : Config) (n : Nat) : List Action :=
  renderActions cfg 0 (seconds n textSecExposure) ++ renderActions cfg 1 []

/-- The relay coming on, and the countdown. -/
def exposeCount (cfg : Config) (n : Nat) : List Action := .drive .relay 1 :: .setTick 0 :: countdownList cfg n

/-- The Expose handler as a list of actions (`exposeActions_eq_ok_iff`). -/
def exposeList (cfg : Config) (n : Nat) : List Action := exposePrelude cfg n ++ (exposeCount cfg n ++ [.drive .relay 0])

theorem tickActions_eq_ok_iff {cfg : Config} {k : Nat} {as : List Action} :
    tickActions cfg k = .ok as ↔ k ≤ 99 ∧ as = tickList cfg k := by
  simp [tickActions, Expansion.append_eq_ok, renderSeconds_eq_ok_iff, tickList]

theorem countdownList_succ (cfg : Config) (n : Nat) : countdownList cfg (n + 1) = countdownList cfg n ++ tickList cfg (n + 1) := by
  simp [countdownList, List.range_succ]

theorem countdownActions_eq_ok {cfg : Config} {n : Nat} (hn : n ≤ 99) : countdownActions cfg n = .ok (countdownList cfg n) := by
  induction n with
  | zero => rfl
  | succ n ih =>
    rw [countdownActions, ih (by omega), tickActions_eq_ok_iff.2 ⟨hn, rfl⟩, countdownList_succ, Expansion.append]

theorem exposeActions_eq_ok_iff {cfg : Config} {et : Seconds} {as : List Action} :
    exposeActions cfg et = .ok as ↔ et.toNat ≤ 99 ∧ as = exposeList cfg et.toNat := by
  rcases Nat.lt_or_ge 99 et.toNat with het | het
  · simp [exposeActions, renderSeconds_of_above cfg 0 textSecExposure het, het]
  · simp [exposeActions, renderSeconds_eq_ok_iff.2 ⟨het, rfl⟩, countdownActions_eq_ok het, Expansion.append, exposeList,
      exposePrelude, exposeCount, het, eq_comm]

/-- An exposure by its two drives of the relay: in state `u` it comes on, in state `w` it goes off. -/
theorem runActions_exposeList_cases {cfg : Config} {n : Nat} {s t : State} (h : runActions (exposeList cfg n) s = .next t) :
    ∃ u w, runActions (exposePrelude cfg n) s = .next u ∧ runActions (exposeCount cfg n) u = .next w ∧
      t = drivePrim .relay 0 w := by
  rw [exposeList, runActions_append] at h
  obtain ⟨u, hprelude, hrest⟩ := andThen_eq_next.1 h
  rw [runActions_append] at hrest
  obtain ⟨w, hcount, ⟨⟩⟩ := andThen_eq_next.1 hrest
  exact ⟨u, w, hprelude, hcount, rfl⟩

section
variable {cfg : Config} (hgeometry : standardGeometry cfg)
include hgeometry

theorem tickList_signals (k : Nat) : (tickList cfg k).flatMap Action.signals = tickSignals cfg k := by
  simp [tickList, renderActions_signals hgeometry le_rfl, tickSignals, Action.signals]

theorem tickList_waits (k : Nat) : ((tickList cfg k).map Action.waits).sum = cfg.tTick + lineTime cfg := by
  have hshow := renderActions_waits hgeometry le_rfl (length_seconds_le k (tail := textSecLastExp) (by decide))
  simp [tickList, hshow, Action.waits]

theorem countdownList_signals (n : Nat) :
    (countdownList cfg n).flatMap Action.signals = (List.range n).flatMap fun k => tickSignals cfg (k + 1) := by
  simp only [countdownList, List.flatMap_assoc, tickList_signals hgeometry]

theorem countdownList_waits (n : Nat) : ((countdownList cfg n).map Action.waits).sum = n * (cfg.tTick + lineTime cfg) := by
  induction n with
  | zero => simp [countdownList]
  | succ n ih => rw [countdownList_succ, List.map_append, List.sum_append, ih, tickList_waits hgeometry, Nat.succ_mul]

theorem exposePrelude_signals (n : Nat) : (exposePrelude cfg n).flatMap Action.signals =
    lineSignals cfg 0 (seconds n textSecExposure) ++ lineSignals cfg 1 [] := by
  rw [exposePrelude, List.flatMap_append, renderActions_signals hgeometry (Nat.zero_le 1), renderActions_signals hgeometry le_rfl]

theorem exposePrelude_waits (n : Nat) : ((exposePrelude cfg n).map Action.waits).sum = 2 * lineTime cfg := by
  rw [exposePrelude, List.map_append, List.sum_append,
    renderActions_waits hgeometry (Nat.zero_le 1) (length_seconds_le n (tail := textSecExposure) (by decide)),
    renderActions_waits hgeometry le_rfl (str := []) (Nat.zero_le 16), Nat.two_mul]

theorem exposeCount_waits (n : Nat) : ((exposeCount cfg n).map Action.waits).sum = n * (cfg.tTick + lineTime cfg) := by
  simp [exposeCount, Action.waits, countdownList_waits hgeometry]

theorem exposeList_signals (n : Nat) : (exposeList cfg n).flatMap Action.signals = exposeSignals cfg n := by
  simp [exposeList, exposePrelude_signals hgeometry, exposeCount, countdownList_signals hgeometry, exposeSignals, Action.signals]

theorem exposeList_waits (n : Nat) :
    ((exposeList cfg n).map Action.waits).sum = 2 * lineTime cfg + n * (cfg.tTick + lineTime cfg) := by
  simp [exposeList, exposePrelude_waits hgeometry, exposeCount_waits hgeometry, Action.waits]

theorem runActions_exposePrelude_cur {n : Nat} {s t : State} (h : runActions (exposePrelude cfg n) s = .next t) :
    t.curCol = 0 ∧ t.curLine = 1 := by
  rw [exposePrelude, runActions_append] at h
  obtain ⟨u, -, hclear⟩ := andThen_eq_next.1 h
  exact runActions_writeAt_lineStart (line := 1) hgeometry hclear

/-- A tick leaves its number in `TICK` and the start of line 1 in `CUR`. -/
theorem runActions_tick {k : Nat} {s t : State} (h : runActions (tickList cfg k) s = .next t) :
    t.tick = some (BitVec.ofNat 7 k) ∧ t.curCol = 0 ∧ t.curLine = 1 := by
  have hshow : runActions (renderActions cfg 1 (seconds k textSecLastExp))
    ((waitPrim cfg.tTick s).setTick (BitVec.ofNat 7 k)).passTime = .next t := h
  exact ⟨((renderActions_nibbled cfg 1 _).sameBeyondDisplay hshow).tick,
    runActions_writeAt_lineStart (line := 1) hgeometry hshow⟩

/-- The countdown's last tick leaves these registers; a countdown of 0 leaves them as they were. -/
theorem runActions_countdown {n : Nat} {s t : State} (h : runActions (countdownList cfg n) s = .next t) (htick : s.tick = some 0)
    (hcur : s.curCol = 0 ∧ s.curLine = 1) : t.tick = some (BitVec.ofNat 7 n) ∧ t.curCol = 0 ∧ t.curLine = 1 := by
  cases n with
  | zero => cases h; exact ⟨htick, hcur⟩
  | succ n =>
    rw [countdownList_succ, runActions_append] at h
    obtain ⟨u, -, hlast⟩ := andThen_eq_next.1 h
    exact runActions_tick hgeometry hlast

theorem runActions_exposeList {n : Nat} {s t : State} (h : runActions (exposeList cfg n) s = .next t) :
    t.relay = 0 ∧ t.tick = some (BitVec.ofNat 7 n) ∧ t.curCol = 0 ∧ t.curLine = 1 := by
  obtain ⟨u, w, hprelude, hcount, rfl⟩ := runActions_exposeList_cases h
  have hcountdown : runActions (countdownList cfg n) ((drivePrim .relay 1 u).setTick 0).passTime = .next w := hcount
  have hcur : u.curCol = 0 ∧ u.curLine = 1 := runActions_exposePrelude_cur hgeometry hprelude
  have hregisters := runActions_countdown hgeometry hcountdown rfl (by simpa [State.passTime, drivePrim] using hcur)
  exact ⟨rfl, hregisters⟩

end

/-- Settles O37: the handler's own list, which has no write of `ET`. -/
theorem exposeCountsItsSeconds : Obligations.ExposeCountsItsSeconds := by
  intro s hgeometry het
  obtain ⟨t, hexec, hrun, hevents, htime, hsurroundings, hposition, hquantizer⟩ :=
    exec_handlerOf_of_list (s := s) (z := .expose) (exposeActions_eq_ok_iff.2 ⟨het, rfl⟩)
  obtain ⟨hrelay, htick, hcol, hline⟩ := runActions_exposeList hgeometry hrun
  rw [exposeList_signals hgeometry] at hevents
  rw [exposeList_waits hgeometry] at htime
  exact ⟨t, hexec, exec_et_of_not_writer hexec (by simp [handlerOf]), by rw [htick, BitVec.ofNat_toNat, BitVec.setWidth_eq],
    hrelay, hevents, hcol, hline, htime, hsurroundings, hposition, hquantizer⟩

/-! ### How long the relay is on (R78) -/

theorem Action.set_mem_signals {a : Action} {l : Line} {v : Nibble} : .set l v ∈ a.signals ↔ a = .drive l v := by
  cases a <;> simp [Action.signals, eq_comm]

/-- The actions of an exposure between the drives of the relay append no event of the relay. -/
theorem Nibbled.appends_off_relay {cfg : Config} {as : List Action} {s t : State}
    (h : Nibbled cfg (fun a => a.isDriver ∨ ∃ v, a = .setTick v) as) (hrun : runActions as s = .next t) :
    ∃ evs, t.trace = s.trace ++ evs ∧ ∀ ev ∈ evs, ∀ v x, ev ≠ .set .relay v x := by
  have hactions : ∀ a ∈ as, a ≠ .sample ∧ ∀ v, a ≠ .drive .relay v :=
    h.forall_mem (fun a ha => by cases a <;> simp_all [Action.isDriver]) fun rs n => by simp [sendNibbleActions]
  obtain ⟨evs, htrace, hsignals, -⟩ := runActions_appends hrun fun a ha => (hactions a ha).1
  refine ⟨evs, htrace, ?_⟩
  rintro _ hev v x rfl
  have hmem : .set .relay v ∈ as.flatMap Action.signals := hsignals ▸ List.mem_map_of_mem (f := Event.signal) hev
  obtain ⟨a, ha, hdrive⟩ := List.mem_flatMap.1 hmem
  exact (hactions a ha).2 v (Action.set_mem_signals.1 hdrive)

theorem exposePrelude_nibbled (cfg : Config) (n : Nat) : Nibbled cfg Action.isDriver (exposePrelude cfg n) :=
  (renderActions_nibbled cfg 0 _).append (renderActions_nibbled cfg 1 _)

/-- Settles O38: the two drives of the relay in the handler's list, and what lies between them. -/
theorem relayIsOnForEveryTick : Obligations.RelayIsOnForEveryTick := by
  intro s t hgeometry h
  obtain ⟨as, hlist, hrun⟩ := exec_handlerOf_next (z := .expose) h
  obtain ⟨het, rfl⟩ := exposeActions_eq_ok_iff.1 hlist
  obtain ⟨u, w, hprelude, hcount, rfl⟩ := runActions_exposeList_cases hrun
  have htakes := runActions_takes hcount
  rw [exposeCount_waits hgeometry] at htakes
  obtain ⟨hleast, hexact⟩ := htakes
  obtain ⟨pre, hbefore, hpre⟩ := ((exposePrelude_nibbled s.cfg s.et.toNat).mono fun _ => .inl).appends_off_relay hprelude
  have hcountdown : runActions (.setTick 0 :: countdownList s.cfg s.et.toNat) (drivePrim .relay 1 u) = .next w := hcount
  obtain ⟨mid, hduring, hmid⟩ := Nibbled.appends_off_relay
    (.cons (.inr ⟨0, rfl⟩) (countdownActions_nibbled (countdownActions_eq_ok het))) hcountdown
  have hon : (drivePrim .relay 1 u).trace = u.trace ++ [.set .relay 1 u.time] := by simp [drivePrim, State.passTime]
  have hoff : (drivePrim .relay 0 w).trace = w.trace ++ [.set .relay 0 w.time] := by simp [drivePrim, State.passTime]
  refine ⟨pre, mid, u.time, w.time, by rw [hoff, hduring, hon, hbefore], List.forall_mem_append.2 ⟨hpre, hmid⟩, hleast,
    fun hdeterministic => hexact ?_⟩
  exact (runActions_frame hprelude).1.timing.trans hdeterministic

/-! ## What each handler leaves in `ET`, `RELAY` and `TICK` -/

/-- `ET` after the handler of a zone (R71 to R76; `exec_handlerOf_registers`). -/
def etAfterHandler (cfg : Config) (et : Seconds) : Zone → Seconds
  | .increment      => incremented cfg et
  | .decrement      => decremented cfg et
  | .reset          => cfg.etReset
  | .expose | .idle => et

/-- `RELAY` after the handler of a zone. -/
def relayAfterHandler (relay : Bit) : Zone → Bit
  | .expose | .idle                  => 0
  | .increment | .decrement | .reset => relay

/-- `TICK` after the handler of a zone. -/
def tickAfterHandler (et : Seconds) (tick : Option Seconds) : Zone → Option Seconds
  | .expose                                  => some et
  | .increment | .decrement | .reset | .idle => tick

theorem exec_handlerOf_registers {z : Zone} {s t : State} (hgeometry : standardGeometry s.cfg)
    (h : exec (handlerOf z) s = .next t) :
    t.et = etAfterHandler s.cfg s.et z ∧ t.relay = relayAfterHandler s.relay z ∧ t.tick = tickAfterHandler s.et s.tick z := by
  obtain ⟨as, hlist, hrun⟩ := exec_handlerOf_next h
  cases z with
  | idle =>
    cases (exec_hIdle s).symm.trans h
    exact ⟨rfl, rfl, rfl⟩
  | increment =>
    obtain ⟨-, rfl⟩ := incrementActions_eq_ok_iff.1 hlist
    obtain ⟨het, hrelay, htick⟩ := runActions_adjust hrun
    exact ⟨het.trans (incremented_kept s.cfg s.et), hrelay, htick⟩
  | decrement =>
    obtain ⟨-, rfl⟩ := decrementActions_eq_ok_iff.1 hlist
    obtain ⟨het, hrelay, htick⟩ := runActions_adjust hrun
    exact ⟨het.trans (decremented_kept s.cfg s.et), hrelay, htick⟩
  | reset =>
    cases hlist
    exact ⟨runActions_reset_et hrun, exec_relay_of_not_writer h (by simp [handlerOf]) (by simp [handlerOf]),
      exec_tick_of_not_writer h (by simp [handlerOf])⟩
  | expose =>
    obtain ⟨-, rfl⟩ := exposeActions_eq_ok_iff.1 hlist
    obtain ⟨hrelay, htick, -, -⟩ := runActions_exposeList hgeometry hrun
    rw [BitVec.ofNat_toNat, BitVec.setWidth_eq] at htick
    exact ⟨exec_et_of_not_writer h (by simp [handlerOf]), hrelay, htick⟩

/-! ## One iteration of the control loop -/

/-- Where the samples to come are in range `sample()` answers one, the first of them if there is one. -/
theorem samplePrim_of_inRange {s : State} (h : samplesInRange s) :
    ∃ v, v ≤ sampleMax s.cfg ∧ (∀ x xs, s.env.samples = x :: xs → v = x) ∧
      samplePrim s = .next (readSample v (s.setSamples s.env.samples.tail)) := by
  rcases samplePrim_cases s with ⟨hnil, hp⟩ | ⟨v, vs, hcons, hv, hp⟩ | ⟨v, vs, hcons, hv, -⟩
  · have hself : s.setSamples s.env.samples.tail = s := by rw [hnil, List.tail_nil, ← hnil]; rfl
    exact ⟨s.freeSample, s.freeSample_le, by simp [hnil], by rw [hself]; exact hp⟩
  · exact ⟨v, hv, by simp [hcons], by rw [hcons]; exact hp⟩
  · exact absurd (h v (by simp [hcons])) (Nat.not_le.2 hv)

/-- The block once POLL has read the sample `v` (R69). -/
def sampled (v : Nat) (s : State) : State := readSample v (s.latch.setSamples s.env.samples.tail)

/-- The block once POLL has classified its sample. -/
def classified (v : Nat) (s : State) : State := ((sampled v s).setZone (zoneCode (classify (sampled v s).cfg v))).passTime

/-- The block once POLL has noted its sample if it is above the calibrated range (`exec_poll_of_sample`). -/
def polled (v : Nat) (s : State) : State :=
  if calibratedMax < v then notePrim .sampleOutOfCalibratedBand (classified v s) else classified v s

theorem sampled_cfg (v : Nat) (s : State) : (sampled v s).cfg = s.cfg := by simp [sampled, readSample, State.passTime]

theorem polled_of_above {v : Nat} (h : calibratedMax < v) (s : State) :
    polled v s = notePrim .sampleOutOfCalibratedBand (classified v s) := if_pos h

theorem polled_of_calibrated {v : Nat} (h : ¬ calibratedMax < v) (s : State) : polled v s = classified v s := if_neg h

theorem noteSample_classified (v : Nat) (s : State) : noteSample (classified v s) = .next (polled v s) := by
  by_cases hv : calibratedMax < v
  · rw [polled_of_above hv]
    exact noteSample_above (decide_eq_true hv)
  · rw [polled_of_calibrated hv]
    exact noteSample_within (decide_eq_false hv)

theorem classified_zone (v : Nat) (s : State) : (classified v s).zone = some (zoneCode (classify s.cfg v)) := by
  simp [classified, State.passTime, sampled_cfg]

theorem polled_zone (v : Nat) (s : State) : (polled v s).zone = some (zoneCode (classify s.cfg v)) := by
  by_cases hv : calibratedMax < v
  · simp [polled_of_above hv, notePrim, State.passTime, classified_zone]
  · rw [polled_of_calibrated hv, classified_zone]

theorem runHandler_enterHandler (z : Zone) (s : State) : runHandler (enterHandler z s) =
    andThen (exec (handlerOf z) (enterHandler z s).latch) (fun t => .next (t.setSeq (.poll 0))) := by
  rw [exec_handlerOf]
  rfl

/-- POLL of a sample is what its zone's handler does after the sample is classified and noted (R69). -/
theorem exec_poll_of_sample {s : State} {v : Nat} (hv : samplePrim s.latch = .next (sampled v s)) :
    exec .poll s = andThen (exec (handlerOf (classify s.cfg v)) (enterHandler (classify s.cfg v) (polled v s)).latch)
      (fun t => .next (t.setSeq (.poll 0))) := by
  have hsample : perform .sample s.latch = .next (sampled v s) := hv
  have hclassify : perform .classify (sampled v s) = .next (classified v s) :=
    classifyPrim_of_sample (s := sampled v s) (v := v) rfl
  rw [exec_poll_eq, hsample, andThen_next, hclassify, andThen_next, noteSample_classified, andThen_next,
    dispatch_of_zone (polled_zone v s), andThen_next, runHandler_enterHandler]

/-- The events of an iteration before its handler: the sample, and the note of one above the calibrated range. -/
theorem enterHandler_polled_appends (z : Zone) (v : Nat) (s : State) :
    appends s (enterHandler z (polled v s)) (.sample v :: (if 1023 < v then [.err .sampleOutOfCalibratedBand] else [])) := by
  have hclassified : s.time ≤ (classified v s).time := (Nat.le_add_right _ _).trans (Nat.le_add_right _ _)
  have hsample : appends s (classified v s) [.sample v] :=
    ⟨[.sample v s.time], by simp [classified, sampled, readSample, State.passTime], rfl, by simpa [Event.time] using hclassified⟩
  have henter (u : State) : appends u (enterHandler z u) [] ∧ u.time ≤ (enterHandler z u).time :=
    ⟨⟨[], (List.append_nil _).symm, rfl, by simp⟩, Nat.le_add_right _ _⟩
  by_cases hv : calibratedMax < v
  · have hnote : perform (.note .sampleOutOfCalibratedBand) (classified v s) = .next _ := perform_note _ _
    obtain ⟨-, -, hnoted⟩ := perform_frame hnote
    obtain ⟨henters, htime⟩ := henter (notePrim .sampleOutOfCalibratedBand (classified v s))
    rw [polled_of_above hv, if_pos (show 1023 < v from hv)]
    exact appends_trans (hclassified.trans hnoted) htime
      (appends_trans hclassified hnoted hsample (perform_appends hnote (by simp)).2) henters
  · obtain ⟨henters, htime⟩ := henter (classified v s)
    rw [polled_of_calibrated hv, if_neg (show ¬ 1023 < v from hv)]
    exact appends_trans hclassified htime hsample henters

theorem sameSurroundings_iff {s t : State} : SameSurroundings s t ↔
    t.cfg = s.cfg ∧ t.script = s.script ∧ t.env.timing = s.env.timing ∧ t.env.reset = s.env.reset :=
  ⟨fun ⟨hcfg, hscript, htiming, hreset⟩ => ⟨hcfg, hscript, htiming, hreset⟩,
    fun ⟨hcfg, hscript, htiming, hreset⟩ => ⟨hcfg, hscript, htiming, hreset⟩⟩

/-- What an iteration writes and leaves alone before its handler, beside `ZONE`. -/
theorem enterHandler_polled_frame (z : Zone) (v : Nat) (s : State) :
    (enterHandler z (polled v s)).sample = some v ∧ (enterHandler z (polled v s)).env.samples = s.env.samples.tail ∧
      (enterHandler z (polled v s)).et = s.et ∧ (enterHandler z (polled v s)).relay = s.relay ∧
      sameBus s (enterHandler z (polled v s)) ∧ sameCursor s (enterHandler z (polled v s)) ∧
      (enterHandler z (polled v s)).tick = s.tick ∧ SameSurroundings s (enterHandler z (polled v s)) := by
  by_cases hv : calibratedMax < v
  · simp [sameBus, sameCursor, sameSurroundings_iff, enterHandler, polled_of_above hv, notePrim, classified, sampled, readSample,
      State.passTime]
  · simp [sameBus, sameCursor, sameSurroundings_iff, enterHandler, polled_of_calibrated hv, classified, sampled, readSample,
      State.passTime]

/-- Settles O40: the sample that `sample()` answers, and the handler that the dispatch enters. -/
theorem pollRunsTheHandlerOfItsSample : Obligations.PollRunsTheHandlerOfItsSample := by
  intro s hsamples
  obtain ⟨v, hv, hfirst, hsample⟩ := samplePrim_of_inRange (s := s.latch) hsamples
  obtain ⟨hsampled, hrest, het, hrelay, hbus, hcursor, htick, hsurroundings⟩ :=
    enterHandler_polled_frame (classify s.cfg v) v s
  have hzone : (enterHandler (classify s.cfg v) (polled v s)).zone = some (zoneCode (classify s.cfg v)) := polled_zone v s
  exact ⟨enterHandler (classify s.cfg v) (polled v s), v, hv, hfirst, rfl, hsampled, hzone, hrest, het, hrelay, hbus, hcursor,
    htick, hsurroundings, enterHandler_polled_appends _ v s, exec_poll_of_sample hsample⟩

/-- Settles O41: the iteration of O40, with what the zone's handler leaves in the registers. -/
theorem pollCompletes : Obligations.PollCompletes := by
  intro s hsamples hgeometry hdomain hmax
  obtain ⟨u, v, hv, hfirst, -, hsample, hzone, hrest, het, hrelay, -, -, htick, hsurroundings, -, hpoll⟩ :=
    pollRunsTheHandlerOfItsSample s hsamples
  have hcfg : u.latch.cfg = s.cfg := hsurroundings.cfg
  obtain ⟨as, hlist⟩ : ∃ as, handlerActions u.latch.cfg u.latch.et (classify s.cfg v) = .ok as :=
    handlerActions_ok (hcfg ▸ hmax) (by rw [hcfg, State.latch_et, het]; exact hdomain) _
  obtain ⟨t, hexec, -, -, -, hkept, -, ⟨htsample, htzone, htrest⟩⟩ := exec_handlerOf_of_list hlist
  obtain ⟨htet, htrelay, httick⟩ := exec_handlerOf_registers (hcfg ▸ hgeometry) hexec
  rw [hcfg, State.latch_et, het] at htet
  rw [State.latch_relay, hrelay] at htrelay
  rw [State.latch_et, State.latch_tick, het, htick] at httick
  obtain ⟨hc, hs, ht, hr⟩ := hsurroundings.trans (t := u) (u := t) ⟨hkept.cfg, hkept.script, hkept.timing, hkept.reset⟩
  exact ⟨t.setSeq (.poll 0), v, by rw [hpoll, hexec, andThen_next], hv, hfirst, rfl, htsample.trans hsample,
    htzone.trans hzone, htrest.trans hrest, ⟨hc, hs, ht, hr⟩, htet, htrelay, httick⟩

end Sys2Proof.Machine
end

section
/-!
PROOFS of the obligations of spec/60_exceptions.md: what `wait` (R85), `sample` (R88) and `note` (R80, R86) do as instructions, and
how long the cycles that a wait counts last on a given clock (R85, R101).
-/

namespace Sys2Proof.Machine

/-! ## The cycles of a wait -/

/-- The cycles of a wait are the library's rounded-up quotient, `ceil(d x CYCLES_PER_US)` in the words of R85. -/
theorem waitCycles_eq_ceilDiv (cfg : Config) (d : Nat) :
    waitCycles cfg d = d * cfg.cyclesPerUs.num ⌈/⌉ (cfg.cyclesPerUs.denPred + 1) := rfl

theorem le_mul_waitCycles (cfg : Config) (d : Nat) :
    d * cfg.cyclesPerUs.num ≤ (cfg.cyclesPerUs.denPred + 1) * waitCycles cfg d := by
  rw [waitCycles_eq_ceilDiv]
  exact le_smul_ceilDiv (Nat.succ_pos _)

/-- A wait of as many microseconds as CYCLES_PER_US has for its denominator counts its numerator: nothing is rounded up. -/
theorem waitCycles_denominator (cfg : Config) : waitCycles cfg (cfg.cyclesPerUs.denPred + 1) = cfg.cyclesPerUs.num := by
  rw [waitCycles_eq_ceilDiv]
  exact smul_ceilDiv (Nat.succ_pos _) _

section
variable {cfg : Config} {clock : Ratio}

theorem cyclesLast_waitCycles (h : clock.num * (cfg.cyclesPerUs.denPred + 1) ≤ cfg.cyclesPerUs.num * (clock.denPred + 1))
    (d : Nat) : cyclesLast clock (waitCycles cfg d) d := by
  refine le_of_mul_le_mul_left (a := cfg.cyclesPerUs.denPred + 1) ?_ (Nat.succ_pos _)
  calc (cfg.cyclesPerUs.denPred + 1) * (d * clock.num)
      = d * (clock.num * (cfg.cyclesPerUs.denPred + 1)) := by ring
    _ ≤ d * (cfg.cyclesPerUs.num * (clock.denPred + 1)) := Nat.mul_le_mul_left d h
    _ = d * cfg.cyclesPerUs.num * (clock.denPred + 1) := (Nat.mul_assoc _ _ _).symm
    _ ≤ (cfg.cyclesPerUs.denPred + 1) * waitCycles cfg d * (clock.denPred + 1) :=
      Nat.mul_le_mul_right _ (le_mul_waitCycles cfg d)
    _ = (cfg.cyclesPerUs.denPred + 1) * (waitCycles cfg d * (clock.denPred + 1)) := Nat.mul_assoc _ _ _

/-- A constant that is too small cuts short the wait whose cycles it counts without rounding up. -/
theorem not_cyclesLast_waitCycles_denominator
    (h : cfg.cyclesPerUs.num * (clock.denPred + 1) < clock.num * (cfg.cyclesPerUs.denPred + 1)) :
    ¬ cyclesLast clock (waitCycles cfg (cfg.cyclesPerUs.denPred + 1)) (cfg.cyclesPerUs.denPred + 1) := by
  rw [waitCycles_denominator, cyclesLast, Nat.mul_comm _ clock.num]
  exact Nat.not_le.2 h

end

/-- Settles O12: rounding up keeps every wait long enough, and a wait that is not rounded shows a constant that is too small. -/
theorem calibratedWaitsAreLongEnough : Obligations.CalibratedWaitsAreLongEnough :=
  ⟨fun _ _ d h => cyclesLast_waitCycles h d, fun _ _ h => ⟨_, not_cyclesLast_waitCycles_denominator h⟩⟩

/-! ## WAIT -/

theorem boundedBy_some_le (b x : Nat) : boundedBy (some b) x ≤ b := Nat.min_le_right x b

/-- Where DELAY_EXCESS is given no wait exceeds its length by more (R85). -/
theorem State.waitExcess_le {s : State} {b : Nat} (h : s.cfg.delayExcess = some b) : s.waitExcess ≤ b := by
  rw [State.waitExcess, h]
  exact boundedBy_some_le b _

theorem waitPrim_time (d : Nat) (s : State) : (waitPrim d s).time = s.time + d + s.waitExcess := (Nat.add_assoc _ _ _).symm

/-- Settles O9: the one action, whose time is the length of the wait and the environment's excess. -/
theorem waitLastsAtLeastItsLength : Obligations.WaitLastsAtLeastItsLength := by
  intro d s
  have h : perform (.wait d) s = .next (waitPrim d s) := perform_wait d s
  have hbound : ∀ b, s.cfg.delayExcess = some b → (waitPrim d s).time ≤ s.time + d + b := fun b hb => by
    rw [waitPrim_time]
    exact Nat.add_le_add_left (State.waitExcess_le hb) _
  exact ⟨waitPrim d s, (exec_wait s d).trans h, rfl, perform_takes h, hbound, perform_displayOnly rfl h,
    perform_sameBus h (by simp), perform_cur h (by simp)⟩

/-! ## SAMPLE -/

/-- Settles O10: the value that `sample()` answers, and what the one action leaves alone. -/
theorem sampleReadsOneValueInRange : Obligations.SampleReadsOneValueInRange := by
  intro s hsamples
  obtain ⟨v, hv, hfirst, hread⟩ := samplePrim_of_inRange hsamples
  have h : perform .sample s = .next (readSample v (s.setSamples s.env.samples.tail)) := hread
  obtain ⟨hsurroundings, hposition, -⟩ := perform_frame h
  exact ⟨_, v, (exec_sample s).trans hread, rfl, hv, hfirst, rfl, rfl, perform_takes h, hsurroundings, hposition,
    perform_sameBus h (by simp), perform_cur h (by simp), perform_relay h (by simp), perform_et h (by simp),
    perform_tick h (by simp), perform_zone h (by simp)⟩

/-! ## NOTE -/

/-- Settles O11: the one action, which is no drive and no register write. -/
theorem noteOnlyRecordsTheError : Obligations.NoteOnlyRecordsTheError := by
  intro k s
  have h : perform (.note k) s = .next (notePrim k s) := perform_note k s
  exact ⟨notePrim k s, (exec_note s k).trans h, rfl, perform_takes h, perform_displayOnly rfl h, perform_sameBus h (by simp),
    perform_cur h (by simp)⟩

end Sys2Proof.Machine
end

section
/-!
PROOFS of the obligations of spec/70_reset_and_hazards.md: the boot sequence (R95), the durations of the operations (R103), and what a
reset leaves (R93).
-/

namespace Sys2Proof.Machine

/-! ## The boot sequence -/

theorem performs_boot (cfg : Config) : Performs cfg [.init, .banner, .putCmd cfg.cmdClear] (bootActions cfg) := by
  have hbanner : Performs cfg [.banner, .putCmd cfg.cmdClear] (bannerActions cfg ++ (putCommandActions cfg cfg.cmdClear ++ [])) :=
    .cons (by rintro s rfl; rfl) (.putCmd _ (.nil cfg))
  have hinit : Performs cfg [.init, .banner, .putCmd cfg.cmdClear] (initActions cfg ++ _) := .cons (by rintro s rfl; rfl) hbanner
  simpa only [bootActions, List.append_assoc, List.append_nil] using hinit

section
variable {cfg : Config} (hgeometry : standardGeometry cfg)
include hgeometry

theorem bootActions_signals :
    (bootActions cfg).flatMap Action.signals = initSignals cfg ++ bannerSignals cfg ++ commandSignals cfg [cfg.cmdClear] := by
  rw [bootActions, List.flatMap_append, List.flatMap_append,
    initActions_signals ((positionInRange_standard hgeometry).2 (Nat.zero_le 1)), bannerActions_signals hgeometry, putCommandActions,
    sendByte_signals, commandSignals, List.flatMap_singleton]

theorem bootActions_waits : ((bootActions cfg).map Action.waits).sum = initTime cfg + bannerTime cfg + byteTime cfg := by
  rw [bootActions, List.map_append, List.sum_append, List.map_append, List.sum_append,
    initActions_waits ((positionInRange_standard hgeometry).2 (Nat.zero_le 1)), bannerActions_waits hgeometry, putCommandActions,
    sendByte_waits]

/-- The clear at the end leaves the cursor where the banner does. -/
theorem runActions_boot_cur {s t : State} (h : runActions (bootActions cfg) s = .next t) : t.curCol = 0 ∧ t.curLine = 1 := by
  rw [bootActions, runActions_append] at h
  obtain ⟨u, hfront, hclear⟩ := andThen_eq_next.1 h
  rw [runActions_append] at hfront
  obtain ⟨w, -, hbanner⟩ := andThen_eq_next.1 hfront
  obtain ⟨hcol, hline⟩ := runActions_cur (sendByte_noCur cfg .command cfg.cmdClear) hclear
  rw [hcol, hline]
  exact runActions_banner_cur hgeometry hbanner

end

/-- Settles O42: the sequence's list is that of its three operations and stays within the display; what the block keeps beside it is
the position, which then becomes `POLL(0)`. -/
theorem bootEntersTheControlLoop : Obligations.BootEntersTheControlLoop := by
  intro s hgeometry
  obtain ⟨u, hu, hevents, htime, hsame⟩ := (bootActions_nibbled s.cfg).runActions_driver s.latch
  obtain ⟨hsurroundings, -, hquantizer, hrelay, het, htick⟩ := hsame
  obtain ⟨hcol, hline⟩ := runActions_boot_cur hgeometry hu
  rw [bootActions_signals hgeometry] at hevents
  rw [bootActions_waits hgeometry] at htime
  refine ⟨by rw [performs_boot s.cfg s.latch rfl]; rfl, u.setSeq (.poll 0), by rw [exec_boot, hu, andThen_next], rfl, hevents, hcol,
    hline, htime, ?_, hquantizer, hrelay, het, htick⟩
  exact ⟨hsurroundings.cfg, hsurroundings.script, hsurroundings.timing, hsurroundings.reset⟩

/-! ## Durations in deterministic timing -/

/-- An instruction completes and lasts exactly so many microseconds. -/
def Lasts (i : Instr) (s : State) (d : Nat) : Prop := ∃ t, exec i s = .next t ∧ t.time = s.time + d

section
variable {s : State} (hdet : deterministic s)
include hdet

theorem lasts_of_driver_list {i : Instr} {as : List Action} {d : Nat} (h : Nibbled s.cfg Action.isDriver as)
    (hexec : exec i s = runActions as s) (hd : (as.map Action.waits).sum = d) : Lasts i s d := by
  obtain ⟨t, ht, -, htime, -⟩ := h.runActions_driver s
  exact ⟨t, hexec.trans ht, by rw [htime.2 hdet, hd]⟩

theorem lasts_of_handler_list {z : Zone} {as : List Action} {d : Nat} (h : handlerActions s.cfg s.et z = .ok as)
    (hd : (as.map Action.waits).sum = d) : Lasts (handlerOf z) s d := by
  obtain ⟨t, ht, -, -, htime, -⟩ := exec_handlerOf_of_list h
  exact ⟨t, ht, by rw [htime.2 hdet, hd]⟩

end

theorem standardGeometry_default : standardGeometry Config.default := ⟨rfl, rfl⟩

theorem positionInRange_default {c l : Nat} : positionInRange Config.default c l = true ↔ c < 16 ∧ l < 2 := by
  rw [positionInRange_iff]
  change c < 16 ∧ c ≤ 15 ∧ l < 2 ∧ l ≤ 1 ↔ _
  omega

/-- One second less does not wrap round from any value. -/
theorem decremented_le (cfg : Config) (et : Seconds) : (decremented cfg et).toNat ≤ et.toNat := by
  unfold decremented mayDecrement
  split
  · next h => have := of_decide_eq_true h; bv_omega
  · exact le_rfl

section
variable {s : State} (hdet : deterministic s) (hcfg : s.cfg = Config.default)
include hdet hcfg

theorem sendNib_lasts (rs : RegSel) (n : Nibble) : Lasts (.sendNib rs n) s 30 := by
  refine lasts_of_driver_list hdet (.nibble rs n .nil) (by rw [List.append_nil]; rfl) ?_
  rw [List.append_nil, sendNibble_waits, hcfg]
  rfl

theorem sendByte_lasts (rs : RegSel) (v : Byte) : Lasts (.sendByte rs v) s 5060 :=
  lasts_of_driver_list hdet ((sendByteActions_nibbled s.cfg rs v).mono fun _ => Action.isPause.isDriver) rfl
    (by rw [sendByte_waits, hcfg]; rfl)

theorem putStr_lasts (str : List Byte) : Lasts (.putStr str) s (str.length * 5060) :=
  lasts_of_driver_list hdet ((putStringActions_nibbled s.cfg str).mono fun _ => Action.isPause.isDriver) rfl
    (by rw [putStringActions_waits, hcfg]; rfl)

theorem gotoPos_lasts {c l : Nat} (hc : c < 16) (hl : l < 2) : Lasts (.gotoPos c l) s 10060 :=
  lasts_of_driver_list hdet (gotoActions_nibbled s.cfg c l) rfl
    (by rw [hcfg, gotoActions_waits (positionInRange_default.2 ⟨hc, hl⟩)]; rfl)

theorem gotoPos_lasts_zero {c l : Nat} (hout : 16 ≤ c ∨ 2 ≤ l) : Lasts (.gotoPos c l) s 0 :=
  lasts_of_driver_list hdet (gotoActions_nibbled s.cfg c l) rfl
    (by rw [hcfg, gotoActions_of_not_inRange (by rw [positionInRange_default]; omega)]; rfl)

theorem writeAt_lasts {c l : Nat} (hc : c < 16) (hl : l < 2) (str : List Byte) :
    Lasts (.writeAt c l str) s (10060 + str.length * 5060) :=
  lasts_of_driver_list hdet (writeAtActions_nibbled s.cfg c l str) rfl
    (by rw [hcfg, writeAtActions_waits (positionInRange_default.2 ⟨hc, hl⟩)]; rfl)

theorem render_lasts {l : Nat} {str : List Byte} (hl : l < 2) (hstr : str.length ≤ 16) : Lasts (.render l str) s 91020 :=
  lasts_of_driver_list hdet (renderActions_nibbled s.cfg l str) (exec_render s l str hstr)
    (by rw [hcfg, renderActions_waits standardGeometry_default (Nat.le_of_lt_succ hl) hstr]; rfl)

theorem init_lasts : Lasts .init s 50360 :=
  lasts_of_driver_list hdet (initActions_nibbled s.cfg) rfl
    (by rw [hcfg, initActions_waits (positionInRange_default.2 (by decide))]; rfl)

theorem banner_lasts : Lasts .banner s 4101080 :=
  lasts_of_driver_list hdet (bannerActions_nibbled s.cfg) rfl
    (by rw [hcfg, bannerActions_waits standardGeometry_default]; rfl)

theorem boot_lasts : Lasts .boot s 4156500 := by
  obtain ⟨-, t, ht, -, -, -, -, htime, -⟩ := bootEntersTheControlLoop s (hcfg ▸ standardGeometry_default)
  exact ⟨t, ht, by rw [htime.2 hdet, hcfg]; rfl⟩

theorem hReset_lasts : Lasts .hReset s 5146560 :=
  lasts_of_handler_list hdet (z := .reset) rfl (by rw [hcfg, resetActions_waits standardGeometry_default]; rfl)

section
variable (het : s.et.toNat ≤ 99)
include het

theorem hInc_lasts : Lasts .hInc s 291020 := by
  have hmax : s.cfg.etMax = 99 := by rw [hcfg]; rfl
  have hvalue := incremented_toNat (cfg := s.cfg) (et := s.et) (by rw [hmax]; exact het) (by rw [hmax]; rfl)
  have hlist : handlerActions s.cfg s.et .increment = .ok _ :=
    incrementActions_eq_ok_iff.2 ⟨hvalue.trans_le ((min_le_right _ _).trans (by rw [hmax]; rfl)), rfl⟩
  refine lasts_of_handler_list hdet hlist ?_
  rw [hcfg, adjustList_waits standardGeometry_default]
  rfl

theorem hDec_lasts : Lasts .hDec s 291020 := by
  have hlist : handlerActions s.cfg s.et .decrement = .ok _ :=
    decrementActions_eq_ok_iff.2 ⟨(decremented_le s.cfg s.et).trans het, rfl⟩
  refine lasts_of_handler_list hdet hlist ?_
  rw [hcfg, adjustList_waits standardGeometry_default]
  rfl

theorem hExpose_lasts : Lasts .hExpose s (182040 + s.et.toNat * 1006020) := by
  have hlist : handlerActions s.cfg s.et .expose = .ok _ := exposeActions_eq_ok_iff.2 ⟨het, rfl⟩
  refine lasts_of_handler_list hdet hlist ?_
  rw [hcfg, exposeList_waits standardGeometry_default]
  rfl

/-- The time between the two drives of the relay (R78). -/
theorem hExpose_relay_lasts : ∃ t pre mid on, exec .hExpose s = .next t ∧
    t.trace = s.trace ++ pre ++ [.set .relay 1 on] ++ mid ++ [.set .relay 0 (on + s.et.toNat * 1006020)] ∧
    ∀ ev ∈ mid, ∀ v x, ev ≠ .set .relay v x := by
  obtain ⟨t, ht, -⟩ := hExpose_lasts hdet hcfg het
  have hgeometry : standardGeometry s.cfg := hcfg ▸ standardGeometry_default
  obtain ⟨pre, mid, on, off, htrace, hothers, -, hoff⟩ := relayIsOnForEveryTick s t hgeometry ht
  have htick : s.cfg.tTick + lineTime s.cfg = 1006020 := by rw [hcfg]; rfl
  rw [hoff hdet, htick] at htrace
  exact ⟨t, pre, mid, on, ht, htrace, fun ev hev => hothers ev (List.mem_append_right pre hev)⟩

end

end

/-- Settles O43: the rows of the table one by one; PUTCMD and PUTCHAR perform the list of SENDBYTE. -/
theorem deterministicDurations : Obligations.DeterministicDurations := by
  intro s hdet hcfg lasts
  exact ⟨sendNib_lasts hdet hcfg, sendByte_lasts hdet hcfg, sendByte_lasts hdet hcfg .command, sendByte_lasts hdet hcfg .data,
    putStr_lasts hdet hcfg, fun _ _ => gotoPos_lasts hdet hcfg, fun _ _ => gotoPos_lasts_zero hdet hcfg,
    fun _ _ str hc hl => writeAt_lasts hdet hcfg hc hl str, fun _ _ => render_lasts hdet hcfg, init_lasts hdet hcfg,
    banner_lasts hdet hcfg, boot_lasts hdet hcfg, hReset_lasts hdet hcfg, lasts_of_handler_list hdet (z := .idle) rfl rfl,
    fun het => ⟨hInc_lasts hdet hcfg het, hDec_lasts hdet hcfg het, hExpose_lasts hdet hcfg het, hExpose_relay_lasts hdet hcfg het⟩⟩

/-! ## A reset at a point of a step -/

section
variable {p : ResetPoint} (hp : p.after = 0) (s : State)
include hp

theorem partOfActions_first (as : List Action) : partOfActions p as s = .next (beginAction p.into as[0]? s) := by
  rw [partOfActions, hp, List.take_zero, runActions_nil, andThen_next]

theorem partOfProgram_first : partOfProgram p s = .next (beginAction p.into s.nextAction s) := by
  rw [partOfProgram, hp, programPart, andThen_next]

theorem Meaning.part_first (m : Meaning) : ∃ u, m.part p s = .next u := by
  cases m with
  | list x =>
    cases x with
    | ok as => exact ⟨_, partOfActions_first hp s as⟩
    | error h => exact ⟨s, if_pos hp⟩
  | poll | boot => exact ⟨_, partOfProgram_first hp _⟩
  | one _ | enter _ | faults _ | refuses _ => exact ⟨s, if_pos hp⟩

/-- Nothing can stop the block before the first action of the step has ended. -/
theorem abandoned_first : ∃ u, abandoned p s = .next u := by
  unfold abandoned
  split
  · exact ⟨s, rfl⟩
  · split
    · split
      · rw [partOfOperation_eq_part]
        exact Meaning.part_first hp _ _
      · exact ⟨s, rfl⟩
    · exact ⟨_, rfl⟩

end

theorem step_of_reset {s u : State} {p : ResetPoint} (hcfg : configOk s.cfg = true) (hreset : s.env.reset = some p)
    (hu : abandoned p s = .next u) : step s = .next (takeReset u) := by
  simp only [step, hcfg, hreset, hu, andThen_next, if_true]

/-- Settles O1: a reset answers the reset values whatever state the step has reached, and no part of a step writes the
configuration. -/
theorem resetLeavesResetValues : Obligations.ResetLeavesResetValues := by
  refine ⟨fun s u p hcfg hreset hu => ⟨takeReset u, step_of_reset hcfg hreset hu, ?_, ?_⟩, fun s p hp => abandoned_first hp s, ?_,
    rfl⟩
  · exact ⟨rfl, rfl, rfl, rfl, rfl, rfl, rfl, rfl, rfl, rfl, rfl, rfl, rfl, rfl⟩
  · exact sameConfig_stepClosed.abandoned p s u hu
  · exact ⟨rfl, rfl, rfl, rfl, rfl, rfl, rfl, rfl, rfl, rfl, rfl, rfl, rfl, rfl⟩

end Sys2Proof.Machine
end
